-- ==== Sys2Proof/Word.lean ====
section
/-!
DEFINITION. The widths of 00_scope.md rule R10, as bit-vector types. Nothing else stands here: byte order, sign
extension and bit fields are in Decode.lean and in the files under Machine.
-/

namespace Sys2Proof

/-- One byte: a buffer element, a status byte, a palette channel, an opcode (rule R10). -/
abbrev Byte := BitVec 8

/-- Sixteen bits: an ILDA coordinate pattern, a wire coordinate, a wire colour channel, a record count (rule R10). -/
abbrev Half := BitVec 16

/-- Thirty-two bits: argument and result registers, the period, counters (rule R10). -/
abbrev Word := BitVec 32

/-- Sixty-four bits: the NOW input, SEQ_LAST and PKT.time, in microseconds (rules R10, R19, R23). -/
abbrev Time := BitVec 64

end Sys2Proof
end

