-- ==== Sys2Proof/Config.lean ====
section
/-!
DEFINITION. What an implementation of the block fixes (00_scope.md rule R9), and the one free value of the model.
The parameters are an argument of the model (10_state.md rule R20): State carries one `Config`, which no step
changes, so that a claim about every state is a claim about every configuration (assumption log 1).
-/

namespace Sys2Proof

/-- A capacity of rule R9: `none` is "unbounded". -/
abbrev Cap := Option Nat

/-- A list or string of `n` elements fits in the capacity `c`. -/
def Cap.admits (c : Cap) (n : Nat) : Bool :=
  match c with
  | none => true
  | some m => decide (n ≤ m)

/-- The parameters the source leaves open (rule R9). -/
structure Config where
  /-- IBUF_SIZE, bytes of the ILDA input buffer. -/
  ibufSize : Cap
  /-- RBUF_SIZE, bytes of the receive datagram buffer. -/
  rbufSize : Cap
  /-- PIN_SIZE, points of the encoder input list. -/
  pinSize : Cap
  /-- MAX_FRAMES, frames of the frame store. -/
  maxFrames : Cap
  /-- MAX_POINTS, points of the frame store summed over its frames. -/
  maxPoints : Cap
  /-- TXQ_CAP, datagrams of the transmit output. -/
  txqCap : Cap
  /-- RESET_LOOP, the reset value of SEQ_LOOP. -/
  resetLoop : Bool
  /-- RESET_FPS, the reset value of SEQ_FPS in thousandths of a frame per second. -/
  resetFps : Word
  /-- RESET_SPEED, the reset value of SEQ_SPEED in thousandths. -/
  resetSpeed : Word
deriving DecidableEq, Repr

/-- The defaults of rule R9. -/
def Config.default : Config where
  ibufSize := none
  rbufSize := some 65535
  pinSize := none
  maxFrames := none
  maxPoints := none
  txqCap := none
  resetLoop := true
  resetFps := 30000
  resetSpeed := 1000

/-- The reset parameters are legal (70_reset_and_hazards.md rule R297). -/
def Config.legal (c : Config) : Bool :=
  decide (100 ≤ c.resetFps.toNat ∧ c.resetFps.toNat ≤ 1000000 ∧
    100 ≤ c.resetSpeed.toNat ∧ c.resetSpeed.toNat ≤ 10000)

/-- The places where a natural number of the spec is written to a 32-bit register or read through one. -/
inductive Narrowed where
  /-- A count written to Q0. -/
  | q0
  /-- A count or an offset written to Q1. -/
  | q1
  /-- `len(frames)` written to DEC_NFRAMES (rule R125). -/
  | decNframes
  /-- `len(FSTORE)` written to SEQ_N (rule R225). -/
  | seqN
  /-- A natural read by RD_REG as register `num` of rule R47. -/
  | reg (num : Byte)
deriving DecidableEq, Repr

/-- FREE VALUE (assumption log 3). With unbounded buffers a count or an offset can exceed a 32-bit register, and the
spec does not state the register's value then (rule R25 only says that 32 bits suffice for an IBUF below 2^32 bytes).
No body: nothing constrains the value. It is a function of the place and of the number, so that the commands rule R72
calls idempotent stay so. -/
opaque Config.overflow32 : Narrowed → Nat → BitVec 32

end Sys2Proof
end

