-- ==== Sys2Proof/Syntax.lean ====
section
/-!
DEFINITION. The instructions of the block: one constructor for each row of spec/opcode_table.json. The table has three
formats (30_encoding.md): ILDA sections (a 32-byte header and its records), IWP commands, and host commands.
-/

namespace Sys2Proof

/-- A colour of three 8-bit channels: a palette entry (10_state.md rule R30) and the record of a format-2 section
(30_encoding.md rule R93). -/
structure Rgb where
  r : Byte
  g : Byte
  b : Byte
deriving DecidableEq, Repr

/-- The section header (10_state.md rule R27). `name` and `company` are the raw eight bytes. The reserved header bytes
are not stored (30_encoding.md rule R88). -/
structure Header where
  fmt : Byte
  name : Vector Byte 8
  company : Vector Byte 8
  count : Half
  findex : Half
  total : Half
  proj : Byte
deriving DecidableEq, Repr

/-- The record of format 0 (30_encoding.md rule R91): coordinates are two's-complement patterns. -/
structure Indexed3 where
  x : Half
  y : Half
  z : Half
  status : Byte
  ci : Byte
deriving DecidableEq, Repr

/-- The record of format 1 (30_encoding.md rule R92). -/
structure Indexed2 where
  x : Half
  y : Half
  status : Byte
  ci : Byte
deriving DecidableEq, Repr

/-- The record of format 4 (30_encoding.md rule R94), its fields in record order. -/
structure True3 where
  x : Half
  y : Half
  z : Half
  status : Byte
  b : Byte
  g : Byte
  r : Byte
deriving DecidableEq, Repr

/-- The record of format 5 (30_encoding.md rule R95), its fields in record order. -/
structure True2 where
  x : Half
  y : Half
  status : Byte
  b : Byte
  g : Byte
  r : Byte
deriving DecidableEq, Repr

/-- The instructions. A section carries its header and the complete records present (40_ilda_decoder.md rule R124);
an IWP command carries its payload; a host command carries NOW where rule R110 lists NOW as an operand, and takes its
other operands from the ARG registers and the unit state. -/
inductive Instr where
  /-- ILDA_FMT0_INDEXED_3D (rule R130). -/
  | ildaFmt0 (hdr : Header) (recs : List Indexed3)
  /-- ILDA_FMT1_INDEXED_2D (rule R131). -/
  | ildaFmt1 (hdr : Header) (recs : List Indexed2)
  /-- ILDA_FMT2_PALETTE (rule R133). -/
  | ildaFmt2 (hdr : Header) (recs : List Rgb)
  /-- ILDA_FMT4_TRUECOLOR_3D (rule R134). -/
  | ildaFmt4 (hdr : Header) (recs : List True3)
  /-- ILDA_FMT5_TRUECOLOR_2D (rule R135). -/
  | ildaFmt5 (hdr : Header) (recs : List True2)
  /-- IWP_OFF, type 0 (rule R180). -/
  | iwpOff
  /-- IWP_PERIOD, type 1 (rule R181). -/
  | iwpPeriod (v : Word)
  /-- IWP_PT8, type 2 (rule R182). -/
  | iwpPt8 (x y : Half) (r g b : Byte)
  /-- IWP_PT16, type 3 (rule R183). -/
  | iwpPt16 (x y r g b : Half)
  /-- NOP (rule R260). -/
  | nop
  /-- DECODE_ILDA (rule R125). -/
  | decodeIlda
  /-- XF_I2W (rule R150). -/
  | xfI2w
  /-- XF_W2I (rule R152). -/
  | xfW2i
  /-- XF_W2S (rule R154). -/
  | xfW2s
  /-- XF_EXP (rule R156). -/
  | xfExp
  /-- XF_NAR (rule R158). -/
  | xfNar
  /-- XF_WCOL (rule R160). -/
  | xfWcol
  /-- XF_FRAME (rule R212). -/
  | xfFrame
  /-- XF_CURRENT (rule R213). -/
  | xfCurrent
  /-- PARSE_IWP (rule R175). -/
  | parseIwp (now : Time)
  /-- TX_OPEN (rule R202). -/
  | txOpen
  /-- TX_SET_RATE (rule R204). -/
  | txSetRate
  /-- TX_PACK (rule R198). -/
  | txPack
  /-- TX_CLOSE (rule R206). -/
  | txClose
  /-- TX_SET_MAXDG (rule R208). -/
  | txSetMaxdg
  /-- SEQ_LOAD (rule R225). -/
  | seqLoad
  /-- SEQ_PLAY (rule R227). -/
  | seqPlay (now : Time)
  /-- SEQ_PAUSE (rule R228). -/
  | seqPause
  /-- SEQ_STOP (rule R229). -/
  | seqStop
  /-- SEQ_UPDATE (rule R232). -/
  | seqUpdate (now : Time)
  /-- SEQ_NEXT (rule R233). -/
  | seqNext
  /-- SEQ_PREV (rule R234). -/
  | seqPrev
  /-- SEQ_SET_FPS (rule R236). -/
  | seqSetFps
  /-- SEQ_SET_SPEED (rule R237). -/
  | seqSetSpeed
  /-- SEQ_SET_LOOP (rule R235). -/
  | seqSetLoop
  /-- SEQ_SNAPSHOT (rule R238). -/
  | seqSnapshot
  /-- RD_REG (rule R261). -/
  | rdReg
deriving DecidableEq, Repr

end Sys2Proof
end

