-- ==== Sys2Proof/WellFormed.lean ====
section
/-!
DEFINITION. Which terms of `Instr` an encoding can stand for. Only a section can be ill-formed: its header must name
its own format code (30_encoding.md rule R90), and a section never holds more records than its count
(40_ilda_decoder.md rule R124). Every field of an IWP or host command admits every value of its width.
-/

namespace Sys2Proof

/-- A header and `n` records make a section of format code `code` (rules R90, R124). -/
def Header.heads (h : Header) (code : Byte) (n : Nat) : Bool :=
  decide (h.fmt = code ∧ n ≤ h.count.toNat)

/-- The instruction has an encoding. -/
def Instr.wellFormed (i : Instr) : Bool :=
  match i with
  | .ildaFmt0 h recs => h.heads 0 recs.length
  | .ildaFmt1 h recs => h.heads 1 recs.length
  | .ildaFmt2 h recs => h.heads 2 recs.length
  | .ildaFmt4 h recs => h.heads 4 recs.length
  | .ildaFmt5 h recs => h.heads 5 recs.length
  | .iwpOff => true
  | .iwpPeriod _ => true
  | .iwpPt8 _ _ _ _ _ => true
  | .iwpPt16 _ _ _ _ _ => true
  | .nop => true
  | .decodeIlda => true
  | .xfI2w => true
  | .xfW2i => true
  | .xfW2s => true
  | .xfExp => true
  | .xfNar => true
  | .xfWcol => true
  | .xfFrame => true
  | .xfCurrent => true
  | .parseIwp _ => true
  | .txOpen => true
  | .txSetRate => true
  | .txPack => true
  | .txClose => true
  | .txSetMaxdg => true
  | .seqLoad => true
  | .seqPlay _ => true
  | .seqPause => true
  | .seqStop => true
  | .seqUpdate _ => true
  | .seqNext => true
  | .seqPrev => true
  | .seqSetFps => true
  | .seqSetSpeed => true
  | .seqSetLoop => true
  | .seqSnapshot => true
  | .rdReg => true

end Sys2Proof
end

