-- ==== Sys2Proof/Decode.lean ====
section
/-!
DEFINITION. The three encodings of 30_encoding.md: ILDA sections, IWP commands, host commands. First the byte-string
primitives of 00_scope.md rules R11 to R13, then the decoders, total on any bytes and rejecting by name, then the
encoder, then the reading of a word of spec/opcode_table.json.
-/

namespace Sys2Proof

/-! ### Byte-string primitives -/

/-- Byte `a` of a byte string (rule R12). Every use is guarded by a length test (20_memory.md rule R62), so the value
past the end never reaches a result. -/
def byteAt (bs : List Byte) (a : Nat) : Byte := bs.getD a 0

/-- `[hi, lo]` read big-endian (rules R12, R67). -/
def be16 (hi lo : Byte) : Half := hi ++ lo

/-- Four bytes read big-endian (rules R12, R67). -/
def be32 (b3 b2 b1 b0 : Byte) : Word := b3 ++ b2 ++ b1 ++ b0

/-- `be16(buf, a)` of rule R12. -/
def be16At (bs : List Byte) (a : Nat) : Half := be16 (byteAt bs a) (byteAt bs (a + 1))

/-- `be32(buf, a)` of rule R12. -/
def be32At (bs : List Byte) (a : Nat) : Word :=
  be32 (byteAt bs a) (byteAt bs (a + 1)) (byteAt bs (a + 2)) (byteAt bs (a + 3))

/-- `MemRead(buf, a, 8)` of rule R12, for the two name fields of a header. -/
def bytes8At (bs : List Byte) (a : Nat) : Vector Byte 8 := Vector.ofFn fun i : Fin 8 => byteAt bs (a + i.val)

/-- `put16(v)` of rule R12. -/
def put16 (v : Half) : List Byte := [v.extractLsb' 8 8, v.extractLsb' 0 8]

/-- `put32(v)` of rule R12. -/
def put32 (v : Word) : List Byte := [v.extractLsb' 24 8, v.extractLsb' 16 8, v.extractLsb' 8 8, v.extractLsb' 0 8]

/-- `sext_16` of rule R13 on a natural below 65536. -/
def sext16 (v : Nat) : Int := if v < 32768 then (v : Int) else (v : Int) - 65536

/-! ### ILDA sections -/

/-- HDR_BYTES (rules R8, R85). -/
def hdrBytes : Nat := 32

/-- The magic 'ILDA' (rules R11, R87). -/
def magic : List Byte := [0x49, 0x4C, 0x44, 0x41]

/-- Offset of the format code in a header (rule R86). -/
def offFmt : Nat := 7
/-- Offset of the frame name (rule R86). -/
def offName : Nat := 8
/-- Offset of the company name (rule R86). -/
def offCompany : Nat := 16
/-- Offset of the record count (rule R86). -/
def offCount : Nat := 24
/-- Offset of the frame index (rule R86). -/
def offFindex : Nat := 26
/-- Offset of the total frames (rule R86). -/
def offTotal : Nat := 28
/-- Offset of the projector id (rule R86). -/
def offProj : Nat := 30

/-- Record size of a format code; none where the code is unsupported (rules R90, R98, R99). -/
def recsize (fmt : Byte) : Option Nat :=
  match fmt.toNat with
  | 0 => some 8
  | 1 => some 6
  | 2 => some 3
  | 4 => some 10
  | 5 => some 8
  | _ => none

/-- `readHeader` of 40_ilda_decoder.md rule R122, on the bytes from the header on. -/
def readHeader (bs : List Byte) : Header where
  fmt := byteAt bs offFmt
  name := bytes8At bs offName
  company := bytes8At bs offCompany
  count := be16At bs offCount
  findex := be16At bs offFindex
  total := be16At bs offTotal
  proj := byteAt bs offProj

/-- The format-0 record at the head of `bs` (rule R91). -/
def readIndexed3 (bs : List Byte) : Indexed3 where
  x := be16At bs 0
  y := be16At bs 2
  z := be16At bs 4
  status := byteAt bs 6
  ci := byteAt bs 7

/-- The format-1 record at the head of `bs` (rule R92). -/
def readIndexed2 (bs : List Byte) : Indexed2 where
  x := be16At bs 0
  y := be16At bs 2
  status := byteAt bs 4
  ci := byteAt bs 5

/-- The format-2 record at the head of `bs` (rule R93). -/
def readRgb (bs : List Byte) : Rgb where
  r := byteAt bs 0
  g := byteAt bs 1
  b := byteAt bs 2

/-- The format-4 record at the head of `bs`: channel order b, g, r (rule R94). -/
def readTrue3 (bs : List Byte) : True3 where
  x := be16At bs 0
  y := be16At bs 2
  z := be16At bs 4
  status := byteAt bs 6
  b := byteAt bs 7
  g := byteAt bs 8
  r := byteAt bs 9

/-- The format-5 record at the head of `bs`: channel order b, g, r (rule R95). -/
def readTrue2 (bs : List Byte) : True2 where
  x := be16At bs 0
  y := be16At bs 2
  status := byteAt bs 4
  b := byteAt bs 5
  g := byteAt bs 6
  r := byteAt bs 7

/-- `k` records of `rs` bytes each, back to back: record j stands at `j*rs` (rule R124). -/
def readRecords {α : Type} (rd : List Byte → α) (rs : Nat) : Nat → List Byte → List α
  | 0, _ => []
  | k + 1, bs => rd bs :: readRecords rd rs k (bs.drop rs)

/-- `k = min(count, avail)`: the records of a section that are decoded, `body` being the bytes after its header
(rule R124). -/
def recordsPresent (h : Header) (rs : Nat) (body : List Byte) : Nat := min h.count.toNat (body.length / rs)

/-- One section of an ILDA image: its header and its complete records (rules R90, R124). -/
inductive Sec where
  | fmt0 (hdr : Header) (recs : List Indexed3)
  | fmt1 (hdr : Header) (recs : List Indexed2)
  | fmt2 (hdr : Header) (recs : List Rgb)
  | fmt4 (hdr : Header) (recs : List True3)
  | fmt5 (hdr : Header) (recs : List True2)
deriving DecidableEq, Repr

/-- Why no section stands at the head of a byte string (rules R121, R128). -/
inductive SecReject where
  /-- Fewer than 32 bytes remain. -/
  | shortHeader
  /-- The four bytes are not 'ILDA'. -/
  | badMagic
  /-- The format code is 3 or in 6..255. -/
  | unsupportedFormat (fmt : Byte)
deriving DecidableEq, Repr

/-- The section at the head of `bs`. The tests run in the order of rule R121: length, magic, format. -/
def decodeSec (bs : List Byte) : Except SecReject Sec :=
  if bs.length < hdrBytes then .error .shortHeader
  else if bs.take 4 ≠ magic then .error .badMagic
  else
    let h := readHeader bs
    let body := bs.drop hdrBytes
    match h.fmt.toNat with
    | 0 => .ok (.fmt0 h (readRecords readIndexed3 8 (recordsPresent h 8 body) body))
    | 1 => .ok (.fmt1 h (readRecords readIndexed2 6 (recordsPresent h 6 body) body))
    | 2 => .ok (.fmt2 h (readRecords readRgb 3 (recordsPresent h 3 body) body))
    | 4 => .ok (.fmt4 h (readRecords readTrue3 10 (recordsPresent h 10 body) body))
    | 5 => .ok (.fmt5 h (readRecords readTrue2 8 (recordsPresent h 8 body) body))
    | _ => .error (.unsupportedFormat h.fmt)

/-! ### IWP commands -/

/-- The raw command record (10_state.md rule R33). -/
inductive RawCmd where
  | off
  | period (v : Word)
  | pt8 (x y : Half) (r g b : Byte)
  | pt16 (x y r g b : Half)
deriving DecidableEq, Repr

/-- `cmdlen` of rule R106; no other byte has a length. -/
def cmdlen (c : Byte) : Option Nat :=
  match c.toNat with
  | 0 => some 1
  | 1 => some 5
  | 2 => some 8
  | 3 => some 11
  | _ => none

/-- Length in bytes of a raw command (rule R100). -/
def RawCmd.length : RawCmd → Nat
  | .off => 1
  | .period _ => 5
  | .pt8 .. => 8
  | .pt16 .. => 11

/-- Why no command stands at the head of a byte string (42_iwp_decode.md rules R175, R178, R179). -/
inductive CmdReject where
  /-- No byte is left. -/
  | atEnd
  /-- The command byte is in 0x04..0xFF. -/
  | unknownCommand (c : Byte)
  /-- Fewer bytes remain than the command's fixed length. -/
  | truncatedCommand (c : Byte)
deriving DecidableEq, Repr

/-- The command at the head of `bs`. The command byte is tested before the length (rule R177), and the payload is
read by rules R101 to R104. -/
def decodeCmd (bs : List Byte) : Except CmdReject RawCmd :=
  if bs.length = 0 then .error .atEnd
  else
    let c := byteAt bs 0
    match cmdlen c with
    | none => .error (.unknownCommand c)
    | some n =>
      if bs.length < n then .error (.truncatedCommand c)
      else
        match c.toNat with
        | 0 => .ok .off
        | 1 => .ok (.period (be32At bs 1))
        | 2 => .ok (.pt8 (be16At bs 1) (be16At bs 3) (byteAt bs 5) (byteAt bs 6) (byteAt bs 7))
        | _ => .ok (.pt16 (be16At bs 1) (be16At bs 3) (be16At bs 5) (be16At bs 7) (be16At bs 9))

/-! ### Host commands -/

/-- Why the host port rejects an issue (rule R112). -/
inductive HostReject where
  /-- No opcode byte was presented. -/
  | noOpcode
  /-- The opcode is not in the table of rule R110. -/
  | unassignedOpcode (op : Byte)
deriving DecidableEq, Repr

/-- The host command of an opcode presented with NOW (rule R110). -/
def decodeHost (op : Byte) (now : Time) : Except HostReject Instr :=
  match op.toNat with
  | 0x00 => .ok .nop
  | 0x01 => .ok .decodeIlda
  | 0x10 => .ok .xfI2w
  | 0x11 => .ok .xfW2i
  | 0x12 => .ok .xfW2s
  | 0x13 => .ok .xfExp
  | 0x14 => .ok .xfNar
  | 0x15 => .ok .xfWcol
  | 0x16 => .ok .xfFrame
  | 0x17 => .ok .xfCurrent
  | 0x20 => .ok (.parseIwp now)
  | 0x30 => .ok .txOpen
  | 0x31 => .ok .txSetRate
  | 0x32 => .ok .txPack
  | 0x33 => .ok .txClose
  | 0x34 => .ok .txSetMaxdg
  | 0x40 => .ok .seqLoad
  | 0x41 => .ok (.seqPlay now)
  | 0x42 => .ok .seqPause
  | 0x43 => .ok .seqStop
  | 0x44 => .ok (.seqUpdate now)
  | 0x45 => .ok .seqNext
  | 0x46 => .ok .seqPrev
  | 0x47 => .ok .seqSetFps
  | 0x48 => .ok .seqSetSpeed
  | 0x49 => .ok .seqSetLoop
  | 0x4A => .ok .seqSnapshot
  | 0x50 => .ok .rdReg
  | _ => .error (.unassignedOpcode op)

/-! ### The decoder -/

/-- The three encodings of 30_encoding.md. -/
inductive Format where
  /-- A section of the IBUF stream. -/
  | ildaSection
  /-- A command of the RBUF stream. -/
  | iwpCmd
  /-- A command presented at the host port. -/
  | hostCmd
deriving DecidableEq, Repr

/-- One encoded unit (rule R85): the stream it stands in, its bytes, and the NOW presented with it (which only a host
command can read). -/
structure CodeUnit where
  format : Format
  bytes : List Byte
  now : Time
deriving DecidableEq, Repr

/-- Why a unit decodes to no instruction. -/
inductive Reject where
  | sec (e : SecReject)
  | cmd (e : CmdReject)
  | host (e : HostReject)
deriving DecidableEq, Repr

/-- A section as an instruction. -/
def Sec.toInstr : Sec → Instr
  | .fmt0 h recs => .ildaFmt0 h recs
  | .fmt1 h recs => .ildaFmt1 h recs
  | .fmt2 h recs => .ildaFmt2 h recs
  | .fmt4 h recs => .ildaFmt4 h recs
  | .fmt5 h recs => .ildaFmt5 h recs

/-- A raw command as an instruction. -/
def RawCmd.toInstr : RawCmd → Instr
  | .off => .iwpOff
  | .period v => .iwpPeriod v
  | .pt8 x y r g b => .iwpPt8 x y r g b
  | .pt16 x y r g b => .iwpPt16 x y r g b

/-- The instruction at the head of a unit. -/
def decode (u : CodeUnit) : Except Reject Instr :=
  match u.format with
  | .ildaSection =>
    match decodeSec u.bytes with
    | .ok sec => .ok sec.toInstr
    | .error e => .error (.sec e)
  | .iwpCmd =>
    match decodeCmd u.bytes with
    | .ok c => .ok c.toInstr
    | .error e => .error (.cmd e)
  | .hostCmd =>
    match u.bytes with
    | [] => .error (.host .noOpcode)
    | op :: _ =>
      match decodeHost op u.now with
      | .ok i => .ok i
      | .error e => .error (.host e)

/-! ### The encoder -/

/-- A header as 32 bytes (rule R86); the reserved bytes are written as zero (rule R115). -/
def encodeHeader (h : Header) : List Byte :=
  magic ++ [0, 0, 0, h.fmt] ++ h.name.toList ++ h.company.toList ++
    put16 h.count ++ put16 h.findex ++ put16 h.total ++ [h.proj, 0]

/-- A format-0 record (rule R91). -/
def encodeIndexed3 (p : Indexed3) : List Byte := put16 p.x ++ put16 p.y ++ put16 p.z ++ [p.status, p.ci]

/-- A format-1 record (rule R92). -/
def encodeIndexed2 (p : Indexed2) : List Byte := put16 p.x ++ put16 p.y ++ [p.status, p.ci]

/-- A format-2 record (rule R93). -/
def encodeRgb (c : Rgb) : List Byte := [c.r, c.g, c.b]

/-- A format-4 record (rule R94). -/
def encodeTrue3 (p : True3) : List Byte := put16 p.x ++ put16 p.y ++ put16 p.z ++ [p.status, p.b, p.g, p.r]

/-- A format-5 record (rule R95). -/
def encodeTrue2 (p : True2) : List Byte := put16 p.x ++ put16 p.y ++ [p.status, p.b, p.g, p.r]

/-- A section: header, then records back to back (rules R85, R86). -/
def encodeSec : Sec → List Byte
  | .fmt0 h recs => encodeHeader h ++ recs.flatMap encodeIndexed3
  | .fmt1 h recs => encodeHeader h ++ recs.flatMap encodeIndexed2
  | .fmt2 h recs => encodeHeader h ++ recs.flatMap encodeRgb
  | .fmt4 h recs => encodeHeader h ++ recs.flatMap encodeTrue3
  | .fmt5 h recs => encodeHeader h ++ recs.flatMap encodeTrue2

/-- An IWP command (rules R101 to R104). -/
def encodeCmd : RawCmd → List Byte
  | .off => [0x00]
  | .period v => [0x01] ++ put32 v
  | .pt8 x y r g b => [0x02] ++ put16 x ++ put16 y ++ [r, g, b]
  | .pt16 x y r g b => [0x03] ++ put16 x ++ put16 y ++ put16 r ++ put16 g ++ put16 b

/-- A host command that does not read NOW. -/
def hostUnit (op : Byte) : CodeUnit := ⟨.hostCmd, [op], 0⟩

/-- The unit of an instruction (rules R86 to R104, R110). -/
def encode : Instr → CodeUnit
  | .ildaFmt0 h recs => ⟨.ildaSection, encodeSec (.fmt0 h recs), 0⟩
  | .ildaFmt1 h recs => ⟨.ildaSection, encodeSec (.fmt1 h recs), 0⟩
  | .ildaFmt2 h recs => ⟨.ildaSection, encodeSec (.fmt2 h recs), 0⟩
  | .ildaFmt4 h recs => ⟨.ildaSection, encodeSec (.fmt4 h recs), 0⟩
  | .ildaFmt5 h recs => ⟨.ildaSection, encodeSec (.fmt5 h recs), 0⟩
  | .iwpOff => ⟨.iwpCmd, encodeCmd .off, 0⟩
  | .iwpPeriod v => ⟨.iwpCmd, encodeCmd (.period v), 0⟩
  | .iwpPt8 x y r g b => ⟨.iwpCmd, encodeCmd (.pt8 x y r g b), 0⟩
  | .iwpPt16 x y r g b => ⟨.iwpCmd, encodeCmd (.pt16 x y r g b), 0⟩
  | .nop => hostUnit 0x00
  | .decodeIlda => hostUnit 0x01
  | .xfI2w => hostUnit 0x10
  | .xfW2i => hostUnit 0x11
  | .xfW2s => hostUnit 0x12
  | .xfExp => hostUnit 0x13
  | .xfNar => hostUnit 0x14
  | .xfWcol => hostUnit 0x15
  | .xfFrame => hostUnit 0x16
  | .xfCurrent => hostUnit 0x17
  | .parseIwp now => ⟨.hostCmd, [0x20], now⟩
  | .txOpen => hostUnit 0x30
  | .txSetRate => hostUnit 0x31
  | .txPack => hostUnit 0x32
  | .txClose => hostUnit 0x33
  | .txSetMaxdg => hostUnit 0x34
  | .seqLoad => hostUnit 0x40
  | .seqPlay now => ⟨.hostCmd, [0x41], now⟩
  | .seqPause => hostUnit 0x42
  | .seqStop => hostUnit 0x43
  | .seqUpdate now => ⟨.hostCmd, [0x44], now⟩
  | .seqNext => hostUnit 0x45
  | .seqPrev => hostUnit 0x46
  | .seqSetFps => hostUnit 0x47
  | .seqSetSpeed => hostUnit 0x48
  | .seqSetLoop => hostUnit 0x49
  | .seqSnapshot => hostUnit 0x4A
  | .rdReg => hostUnit 0x50

/-! ### A word of spec/opcode_table.json -/

/-- The format of the table's row that a word of `nbits` bits and first byte `b` stands for. The table gives only the
distinguishing byte of a row, and the three formats share byte values; the reader's spurious one-bit field (the row's
size read as a bit number) makes exactly the rows of size 8 and more 16 bits wide. Where two rows still have the same
bits (0x00 and 0x01 on 8 bits) the host command is taken (assumption log 6). -/
def tableFormat (nbits : Nat) (b : Byte) : Format :=
  match b.toNat with
  | 0 => if 8 < nbits then .ildaSection else .hostCmd
  | 2 => if 8 < nbits then .iwpCmd else .ildaSection
  | 3 => .iwpCmd
  | 4 => .ildaSection
  | 5 => .ildaSection
  | _ => .hostCmd

/-- The bytes of a table word, its least significant byte first, `n` of them. -/
def tableBytes : Nat → Nat → List Byte
  | _, 0 => []
  | w, n + 1 => BitVec.ofNat 8 w :: tableBytes (w / 256) n

/-- A section of format code `fmt` with every other field zero and no records. -/
def emptySection (fmt : Byte) : List Byte :=
  encodeHeader ⟨fmt, Vector.replicate 8 0, Vector.replicate 8 0, 0, 0, 0, 0⟩

/-- The unit a table word stands for, laid out as its stream holds it: an ILDA row's word is the format code, at header
offset 7; an IWP row's word is the command's first bytes; a host row's word is the opcode. -/
def tableUnit (nbits w : Nat) : CodeUnit :=
  let v := w % 2 ^ nbits
  let b : Byte := BitVec.ofNat 8 v
  match tableFormat nbits b with
  | .ildaSection => ⟨.ildaSection, emptySection b, 0⟩
  | .iwpCmd => ⟨.iwpCmd, tableBytes v ((cmdlen b).getD 1), 0⟩
  | .hostCmd => hostUnit b

/-- The instruction the decoder reads from a table word. -/
def decodeTableWord (nbits w : Nat) : Option Instr :=
  match decode (tableUnit nbits w) with
  | .ok i => some i
  | .error _ => none

end Sys2Proof
end

