-- ==== Sys2Proof/Machine/Codes.lean ====
section
/-!
DEFINITION. The completion codes of 60_exceptions.md rule R270 and the literals of 00_scope.md rule R8 that are not
part of an encoding.
-/

namespace Sys2Proof.Machine

/-! ### Completion codes (rule R270) -/

/-- The command completed as specified. -/
def Status.ok : Byte := 0x00
/-- Fewer than 32 bytes remain at the cursor (rule R121). -/
def Status.decEnd : Byte := 0x01
/-- The four bytes at the cursor are not 'ILDA' (rule R121). -/
def Status.decBadMagic : Byte := 0x02
/-- The format code is not 0, 1, 2, 4 or 5 (rule R128). -/
def Status.decUnsupportedFormat : Byte := 0x03
/-- A section holds fewer complete records than its count (rule R126). -/
def Status.decTruncated : Byte := 0x04
/-- A frame would exceed MAX_FRAMES or MAX_POINTS (rule R129). -/
def Status.decCapacity : Byte := 0x05
/-- The datagram was consumed exactly (rule R175). -/
def Status.parseEnd : Byte := 0x10
/-- The datagram has length 0 (rule R176). -/
def Status.parseEmpty : Byte := 0x11
/-- The last command is shorter than its fixed length (rule R178). -/
def Status.parseTruncated : Byte := 0x12
/-- A command byte is 0x04..0xFF (rule R179). -/
def Status.parseUnknownCmd : Byte := 0x13
/-- TX_PACK with no session open (rule R198). -/
def Status.txNoSession : Byte := 0x20
/-- TXQ or PIN lacks room for the command's output (rule R272). -/
def Status.txCapacity : Byte := 0x22
/-- An operand outside the command's domain (rule R273). -/
def Status.badArg : Byte := 0xE0
/-- The frame named does not exist (rules R212, R213). -/
def Status.noFrame : Byte := 0xE1
/-- An unassigned opcode (rule R263). -/
def Status.refused : Byte := 0xFF

/-- The fifteen codes of rule R270. Every other value is never written. -/
def Status.all : List Byte :=
  [Status.ok, Status.decEnd, Status.decBadMagic, Status.decUnsupportedFormat, Status.decTruncated, Status.decCapacity,
    Status.parseEnd, Status.parseEmpty, Status.parseTruncated, Status.parseUnknownCmd, Status.txNoSession,
    Status.txCapacity, Status.badArg, Status.noFrame, Status.refused]

/-- The code of a stop of the ILDA decoder (rules R121, R128). -/
def Status.ofSecReject : SecReject → Byte
  | .shortHeader => Status.decEnd
  | .badMagic => Status.decBadMagic
  | .unsupportedFormat _ => Status.decUnsupportedFormat

/-- The code of a stop of the IWP parser (rules R175, R178, R179). -/
def Status.ofCmdReject : CmdReject → Byte
  | .atEnd => Status.parseEnd
  | .unknownCommand _ => Status.parseUnknownCmd
  | .truncatedCommand _ => Status.parseTruncated

/-! ### Literals (rule R8) -/

/-- PT16_BYTES: bytes of one encoded type-3 point record. -/
def pt16Bytes : Nat := 11
/-- PERIOD_MIN, in microseconds. -/
def periodMin : Nat := 1
/-- PERIOD_MAX, in microseconds. -/
def periodMax : Nat := 4294967295
/-- Microseconds in a second: the numerator of the period (43_iwp_encode.md rule R200). -/
def microsPerSecond : Nat := 1000000
/-- FPS_MIN, in thousandths of a frame per second (rule R19). -/
def fpsMin : Nat := 100
/-- FPS_MAX, in thousandths of a frame per second. -/
def fpsMax : Nat := 1000000
/-- SPEED_MIN, in thousandths. -/
def speedMin : Nat := 100
/-- SPEED_MAX, in thousandths. -/
def speedMax : Nat := 10000
/-- The least legal TX_MAXDG: one whole record (rule R208). -/
def maxdgMin : Nat := 11
/-- The greatest legal TX_MAXDG (rule R208). -/
def maxdgMax : Nat := 65535
/-- The threshold of the due test, `10^12` (44_sequencer.md rule R231). -/
def dueThreshold : Nat := 1000000000000

/-- `clamp(v, lo, hi)` of rule R13. -/
def clamp (v lo hi : Nat) : Nat := min (max v lo) hi

end Sys2Proof.Machine
end

