-- ==== Sys2Proof/Machine/State.lean ====
section
/-!
DEFINITION. The state record of 10_state.md rule R20, unit by unit, as plain data, and its value after reset
(70_reset_and_hazards.md rule R296). Three fields are the MODEL's own: `cfg`, the configuration that rule R20 makes an
argument of the model; `port`, the host's remaining steps in the serial order of 20_memory.md rule R76; and `answer`,
what the host's last read answered.
-/

namespace Sys2Proof.Machine

/-! ### Records -/

/-- A decoded point (rule R28). Coordinates are two's-complement patterns; the whole status byte is kept. -/
structure Point where
  x : Half
  y : Half
  z : Half
  status : Byte
  r : Byte
  g : Byte
  b : Byte
deriving DecidableEq, Repr

/-- A frame (rule R29). -/
structure Frame where
  fmt : Byte
  hdr : Header
  points : List Point
deriving DecidableEq, Repr

/-- A wire point (rules R33, R34, R36). -/
structure WirePoint where
  x : Half
  y : Half
  r : Half
  g : Half
  b : Half
  blank : Bool
deriving DecidableEq, Repr

/-- The packet record (rule R33). `len` and `endOff` are naturals there; `endOff` is PKT.end. -/
structure Packet where
  points : List WirePoint
  cmds : List RawCmd
  period : Option Word
  time : Time
  len : Nat
  endOff : Nat
  stop : Byte
deriving DecidableEq, Repr

/-- SEQ_STATE (rule R39). Value 3 is never held. -/
inductive PlayState where
  | stopped
  | paused
  | playing
deriving DecidableEq, Repr

/-! ### Units -/

/-- ARG0..ARG3, written by the host alone (rule R22). -/
structure ArgRegs where
  arg0 : Word
  arg1 : Word
  arg2 : Word
  arg3 : Word
deriving DecidableEq, Repr

/-- Q0..Q3 and STATUS, written by commands alone (rules R22, R24). -/
structure ResultRegs where
  q0 : Word
  q1 : Word
  q2 : Word
  q3 : Word
  status : Byte
deriving DecidableEq, Repr

/-- The ILDA decoder (rules R25 to R31): IBUF, DEC_OFF, DEC_NFRAMES, DEC_STOP, PAL, FSTORE. -/
structure DecoderUnit where
  ibuf : List Byte
  off : Nat
  nframes : Word
  stop : Byte
  pal : Vector Rgb 256
  fstore : List Frame
deriving DecidableEq, Repr

/-- The IWP parser (rules R32 to R35): RBUF, PKT, RX_RECEIVED, RX_VALID, RX_INVALID. -/
structure ParserUnit where
  rbuf : List Byte
  pkt : Packet
  received : Word
  valid : Word
  invalid : Word
deriving DecidableEq, Repr

/-- The IWP encoder and framer (rules R36 to R38): PIN, TX_MAXDG, TX_SCAN_HZ, TX_PERIOD, TX_SESSION, TX_NDGRAM, TXQ. -/
structure EncoderUnit where
  pin : List WirePoint
  maxdg : Half
  scanHz : Word
  period : Word
  session : Bool
  ndgram : Word
  txq : List (List Byte)
deriving DecidableEq, Repr

/-- The frame sequencer (rules R39 to R45): SEQ_STATE, SEQ_INDEX, SEQ_LOOP, SEQ_FPS, SEQ_SPEED, SEQ_LAST, SEQ_FLIST,
SEQ_N. -/
structure SequencerUnit where
  state : PlayState
  index : Word
  loop : Bool
  fps : Word
  speed : Word
  last : Time
  flist : List Frame
  n : Word
deriving DecidableEq, Repr

/-- What a host read names: a register, or a space of 20_memory.md rule R60 (rule R71). Rule R63 also names one palette
entry and one frame of FSTORE. -/
inductive ReadPlace where
  /-- The register of this number (rule R47). -/
  | reg (num : Byte)
  | ibuf
  | rbuf
  | pal
  | palEntry (i : Byte)
  | fstore
  | frame (i : Nat)
  | flist
  | pktPoints
  | pktCmds
  | pin
  | txq
deriving DecidableEq, Repr

/-- What a host read answers. -/
inductive HostValue where
  | word (v : Word)
  | bytes (bs : List Byte)
  | colour (c : Rgb)
  | palette (pal : Vector Rgb 256)
  | frame (f : Frame)
  | frames (fs : List Frame)
  | wirePoints (ps : List WirePoint)
  | cmds (cs : List RawCmd)
  | datagrams (ds : List (List Byte))
deriving DecidableEq, Repr

/-- One step of the host at the block's port (20_memory.md rule R71, 45_host_misc.md rule R264). -/
inductive HostStep where
  /-- Present an opcode together with the current NOW. -/
  | issue (op : Byte) (now : Time)
  /-- Write one ARG register. -/
  | writeArg (i : Fin 4) (v : Word)
  /-- Write IBUF as a whole. -/
  | writeIbuf (bytes : List Byte)
  /-- Write RBUF as a whole. -/
  | writeRbuf (bytes : List Byte)
  /-- Write PIN as a whole. -/
  | writePin (pts : List WirePoint)
  /-- Read a register or a space. -/
  | read (p : ReadPlace)
deriving DecidableEq, Repr

/-- The complete state (rule R20), with the model's own `cfg`, `port` and `answer` (assumption log 1 and 2). `answer` is
the host's, not the block's: what its last read answered, none before the first. -/
structure State where
  arg : ArgRegs
  res : ResultRegs
  dec : DecoderUnit
  prs : ParserUnit
  enc : EncoderUnit
  seq : SequencerUnit
  cfg : Config
  port : List HostStep
  answer : Option HostValue
deriving DecidableEq, Repr

/-! ### Outcomes other than a next state -/

/-- The host buffer that a write did not fit. -/
inductive HostBuffer where
  | ibuf
  | rbuf
  | pin
deriving DecidableEq, Repr

/-- The one way the model stops. -/
inductive Fault where
  /-- Raised by a host write of more elements than the buffer's capacity. Rule R61: such a write "has no step: the host
  must not make it". SAFE: the machine is stuck, no later behaviour is claimed (assumption log 4). No command raises
  it. -/
  | hostWriteOverCapacity (buf : HostBuffer)
deriving DecidableEq, Repr

/-- Refusals. The block itself refuses nothing by stopping: an unassigned opcode completes with STATUS REFUSED (rule
R263). -/
inductive Refusal where
  /-- Raised by an arm of `exec` whose instruction has no meaning yet; SAFE. No arm of this model raises it. -/
  | notModelled (mnemonic : String)
deriving DecidableEq, Repr

/-! ### Reset -/

/-- The opaque white of rules R8 and R30. -/
def white : Rgb := ⟨255, 255, 255⟩

/-- PAL at reset and at the start of every decode session (rules R30, R120). -/
def whitePalette : Vector Rgb 256 := Vector.replicate 256 white

/-- PKT at reset (rule R33). -/
def Packet.initial : Packet where
  points := []
  cmds := []
  period := none
  time := 0
  len := 0
  endOff := 0
  stop := 0x00

/-- The reset table of rule R296, for a configuration. The port holds nothing and nothing has been
read: the block waits for the host (rule R295). -/
def State.resetWith (c : Config) : State where
  arg := ⟨0, 0, 0, 0⟩
  res := ⟨0, 0, 0, 0, 0x00⟩
  dec := { ibuf := [], off := 0, nframes := 0, stop := 0x00, pal := whitePalette, fstore := [] }
  prs := { rbuf := [], pkt := Packet.initial, received := 0, valid := 0, invalid := 0 }
  enc := { pin := [], maxdg := 1023, scanHz := 0, period := 1, session := false, ndgram := 0, txq := [] }
  seq := { state := .stopped, index := 0, loop := c.resetLoop, fps := c.resetFps, speed := c.resetSpeed, last := 0,
           flist := [], n := 0 }
  cfg := c
  port := []
  answer := none

/-- The machine right after reset, with the default parameters of rule R9. -/
def State.reset : State := State.resetWith Config.default

end Sys2Proof.Machine
end

