-- ==== Sys2Proof/Machine/Operands.lean ====
section
/-!
DEFINITION. Every operand form of 30_encoding.md rule R111: the slices of the ARG registers a host command takes.
-/

namespace Sys2Proof.Machine

/-- An operand named `ARGi[15:0]`: bits 31..16 are ignored. -/
def lowHalf (v : Word) : Half := v.extractLsb' 0 16

/-- An operand named `ARGi[7:0]`: bits 31..8 are ignored. -/
def lowByte (v : Word) : Byte := v.extractLsb' 0 8

/-- An operand named `ARGi[0]`: bits 31..1 are ignored. -/
def lowBit (v : Word) : Bool := v.getLsbD 0

/-- A result narrower than 32 bits, zero-extended. A signed 16-bit result is written as its 16-bit pattern. -/
def zext32 (v : Half) : Word := v.zeroExtend 32

/-- A flag as a register value. -/
def ofBool32 (b : Bool) : Word := if b then 1 else 0

/-- ARG register `i` of the port (rule R71). -/
def ArgRegs.read (a : ArgRegs) (i : Fin 4) : Word :=
  match i with
  | 0 => a.arg0
  | 1 => a.arg1
  | 2 => a.arg2
  | 3 => a.arg3

/-- Write ARG register `i` (rule R71). -/
def ArgRegs.write (a : ArgRegs) (i : Fin 4) (v : Word) : ArgRegs :=
  match i with
  | 0 => { a with arg0 := v }
  | 1 => { a with arg1 := v }
  | 2 => { a with arg2 := v }
  | 3 => { a with arg3 := v }

/-- SEQ_STATE's encoding: 0 = STOPPED, 1 = PAUSED, 2 = PLAYING (rule R39). -/
def PlayState.code : PlayState → BitVec 2
  | .stopped => 0
  | .paused => 1
  | .playing => 2

/-- SEQ_STATE as a 32-bit result (rules R47, R111). -/
def PlayState.word (p : PlayState) : Word := p.code.zeroExtend 32

/-- Bits 31..0 of a 64-bit register (rule R47, LO). -/
def timeLo (t : Time) : Word := t.extractLsb' 0 32

/-- Bits 63..32 of a 64-bit register (rule R47, HI). -/
def timeHi (t : Time) : Word := t.extractLsb' 32 32

/-- A natural number of the spec written to, or read through, a 32-bit register. Below 2^32 it is that number; above,
the spec states no value and a free one stands (assumption log 3). -/
def toReg32 (site : Narrowed) (n : Nat) : Word :=
  if n < 4294967296 then BitVec.ofNat 32 n else Config.overflow32 site n

end Sys2Proof.Machine
end

