-- ==== Sys2Proof/Machine/Flags.lean ====
section
/-!
DEFINITION. Every flag computation of the block (10_state.md rule R46). The remaining flags of that rule are fields
that commands write directly: SEQ_STATE, SEQ_LOOP, TX_SESSION, and PKT.period being present.
-/

namespace Sys2Proof.Machine

/-- Bit 6 of an ILDA status byte: the point is blanked (30_encoding.md rule R97). Bits 0..5 and 7 are read by no rule. -/
def statusBlank (status : Byte) : Bool := status.getLsbD 6

/-- A decoded point is blanked (rule R46). -/
def Point.blanked (p : Point) : Bool := statusBlank p.status

/-- Blanking of a type-2 point: never inferred (42_iwp_decode.md rule R182). -/
def blankOfPt8 (_r _g _b : Byte) : Bool := false

/-- Blanking of a type-3 point: all three wide channels are zero (rule R183). A lit black point therefore decodes as
blanked (rule R187). -/
def blankOfPt16 (r g b : Half) : Bool := decide (r = 0 ∧ g = 0 ∧ b = 0)

/-- The packet held a period command (rule R46). -/
def Packet.hasPeriod (p : Packet) : Bool := p.period.isSome

end Sys2Proof.Machine
end

