-- ==== Sys2Proof/Machine/Ops.lean ====
section
/-!
DEFINITION. The named operations over the result registers and the memories of 20_memory.md. The block has no
exceptions (60_exceptions.md rules R274, R277): `State.finish` is the one completion operation, which every command
ends with, normally or by `raise` (00_scope.md rule R14).
-/

namespace Sys2Proof.Machine

/-! ### Result registers and completion -/

/-- Write Q0 (rule R22). -/
def State.setQ0 (s : State) (v : Word) : State := { s with res := { s.res with q0 := v } }
/-- Write Q1. -/
def State.setQ1 (s : State) (v : Word) : State := { s with res := { s.res with q1 := v } }
/-- Write Q2. -/
def State.setQ2 (s : State) (v : Word) : State := { s with res := { s.res with q2 := v } }

/-- `STATUS <- code`: the command ends (rules R14, R24, R274). Nothing else is saved or changed (rule R271). -/
def State.finish (s : State) (code : Byte) : State := { s with res := { s.res with status := code } }

/-- `raise code` (rule R14): the command ends with this code, after every state write already made. It is not a trap. -/
def State.raise (s : State) (code : Byte) : State := s.finish code

/-! ### Units -/

/-- Replace the ILDA decoder's state. -/
def State.withDec (s : State) (d : DecoderUnit) : State := { s with dec := d }
/-- Replace the IWP parser's state. -/
def State.withPrs (s : State) (p : ParserUnit) : State := { s with prs := p }
/-- Replace the encoder's state. -/
def State.withEnc (s : State) (e : EncoderUnit) : State := { s with enc := e }
/-- Replace the sequencer's state. -/
def State.withSeq (s : State) (q : SequencerUnit) : State := { s with seq := q }
/-- Hand the host the answer to its read (assumption log 2); the block's own state stays (rule R72). -/
def State.withAnswer (s : State) (v : Option HostValue) : State := { s with answer := v }

/-! ### Palette -/

/-- Palette entry `i`. A colour index is a byte, so it always names an entry (30_encoding.md rule R96). -/
def palGet (pal : Vector Rgb 256) (i : Byte) : Rgb := pal[i.toNat]

/-- `for j: if j < 256: PAL[j] <- rec j`, from index `j` on (40_ilda_decoder.md rule R133). Records with index 256 and
above are passed over. -/
def palLoad : Nat → List Rgb → Vector Rgb 256 → Vector Rgb 256
  | _, [], pal => pal
  | j, c :: cs, pal => palLoad (j + 1) cs (if h : j < 256 then pal.set j c h else pal)

/-! ### Frame store -/

/-- `points(frames)`: the points stored so far (rule R125). -/
def pointsStored (frames : List Frame) : Nat := (frames.map fun f => f.points.length).sum

/-! ### Transmit stream -/

/-- There is room for `n` more datagrams in TXQ (rules R66, R214). -/
def State.txRoom (s : State) (n : Nat) : Bool := s.cfg.txqCap.admits (s.enc.txq.length + n)

/-- `emit(d)` (rules R14, R66): append to TXQ and count, modulo 2^32. -/
def EncoderUnit.emit (e : EncoderUnit) (d : List Byte) : EncoderUnit :=
  { e with txq := e.txq ++ [d], ndgram := e.ndgram + 1 }

/-- Emit datagrams in order (rule R198). -/
def EncoderUnit.emitAll (e : EncoderUnit) : List (List Byte) → EncoderUnit
  | [] => e
  | d :: ds => (e.emit d).emitAll ds

/-! ### Host views (reads have no side effect, 20_memory.md rules R63, R72) -/

/-- Drop the trailing 0x00 and 0x20 bytes of a reversed byte string. -/
def dropPad : List Byte → List Byte
  | [] => []
  | b :: bs => if b = 0x00 ∨ b = 0x20 then dropPad bs else b :: bs

/-- The trimmed view of a name field (40_ilda_decoder.md rule R123); no rule of the block reads it. -/
def trimmed (name : Vector Byte 8) : List Byte := (dropPad name.toList.reverse).reverse

/-! ### Sizes of the memories -/

/-- The memories fit their capacities (20_memory.md rule R60). Each memory is a list indexed from 0 whose length is part
of its value, so equal memories are equal lists and no further canonical form is needed (assumption log 9). -/
def Memory.wf (s : State) : Bool :=
  s.cfg.ibufSize.admits s.dec.ibuf.length && s.cfg.rbufSize.admits s.prs.rbuf.length &&
    s.cfg.pinSize.admits s.enc.pin.length && s.cfg.maxFrames.admits s.dec.fstore.length &&
    s.cfg.maxPoints.admits (pointsStored s.dec.fstore) && s.cfg.txqCap.admits s.enc.txq.length

end Sys2Proof.Machine
end

