-- ==== Sys2Proof/Machine/Transform.lean ====
section
/-!
DEFINITION. The coordinate and colour transformer (41_transform.md): the pure functions, then the commands XF_I2W,
XF_W2I, XF_W2S, XF_EXP, XF_NAR and XF_WCOL. Arithmetic is on integers, narrowed at the end (rule R163).
-/

namespace Sys2Proof.Machine

/-- `ildaToWire` (rule R150): recentre, and flip y. -/
def ildaToWire (x y : Int) : Half × Half :=
  (BitVec.ofInt 16 ((x + 32768) % 65536), BitVec.ofInt 16 ((-y + 32768) % 65536))

/-- `wireToIlda` (rule R152): the exact inverse. -/
def wireToIlda (wx wy : Half) : Int × Int :=
  ((wx.toNat : Int) - 32768, sext16 ((32768 - (wy.toNat : Int)) % 65536).toNat)

/-- One axis of `wireToScreen` (rule R154): `clamp(floor(v*dim/65536), 0, dim-1)`, for `dim ≥ 1`. -/
def toPixel (v dim : Half) : Nat := clamp (v.toNat * dim.toNat / 65536) 0 (dim.toNat - 1)

/-- `expand8to16` (rule R156). -/
def expand8to16 (c : Byte) : Half := BitVec.ofNat 16 (c.toNat * 257)

/-- `narrow16to8` (rule R158). -/
def narrow16to8 (c : Half) : Half := if 255 < c.toNat then c >>> 8 else c

/-- `wexp` (rule R160): the heuristic of the source, a channel above 255 is taken as already 16-bit. -/
def wexp (c : Half) : Half := if 255 < c.toNat then c else BitVec.ofNat 16 (c.toNat * 257)

/-- `wcol` (rule R160): blanking is tested before expansion (rule R161). -/
def wcol (blank : Bool) (c : Half) : Half := if blank then 0 else wexp c

/-! ### Commands -/

/-- XF_I2W (rule R150). -/
def execXfI2w (s : State) : Host.Outcome State Fault Refusal :=
  let w := ildaToWire (lowHalf s.arg.arg0).toInt (lowHalf s.arg.arg1).toInt
  .next (((s.setQ0 (zext32 w.1)).setQ1 (zext32 w.2)).finish Status.ok)

/-- XF_W2I (rule R152): the signed results are written as their 16-bit patterns. -/
def execXfW2i (s : State) : Host.Outcome State Fault Refusal :=
  let p := wireToIlda (lowHalf s.arg.arg0) (lowHalf s.arg.arg1)
  .next (((s.setQ0 (BitVec.ofInt 32 (p.1 % 65536))).setQ1 (BitVec.ofInt 32 (p.2 % 65536))).finish Status.ok)

/-- XF_W2S (rules R154, R155): a zero dimension leaves no pixel to clamp to. -/
def execXfW2s (s : State) : Host.Outcome State Fault Refusal :=
  let w := lowHalf s.arg.arg2
  let h := lowHalf s.arg.arg3
  if w = 0 ∨ h = 0 then .next (((s.setQ0 0).setQ1 0).raise Status.badArg)
  else
    .next (((s.setQ0 (BitVec.ofNat 32 (toPixel (lowHalf s.arg.arg0) w))).setQ1
      (BitVec.ofNat 32 (toPixel (lowHalf s.arg.arg1) h))).finish Status.ok)

/-- XF_EXP (rule R156). -/
def execXfExp (s : State) : Host.Outcome State Fault Refusal :=
  .next ((s.setQ0 (zext32 (expand8to16 (lowByte s.arg.arg0)))).finish Status.ok)

/-- XF_NAR (rule R158). -/
def execXfNar (s : State) : Host.Outcome State Fault Refusal :=
  .next ((s.setQ0 (zext32 (narrow16to8 (lowHalf s.arg.arg0)))).finish Status.ok)

/-- XF_WCOL (rule R160). -/
def execXfWcol (s : State) : Host.Outcome State Fault Refusal :=
  .next ((s.setQ0 (zext32 (wcol (lowBit s.arg.arg1) (lowHalf s.arg.arg0)))).finish Status.ok)

end Sys2Proof.Machine
end

