-- ==== Sys2Proof/Machine/Framer.lean ====
section
/-!
DEFINITION. The IWP encoder and session framer (43_iwp_encode.md): point records, fragmentation, the period, the
session commands TX_OPEN, TX_SET_RATE, TX_PACK, TX_CLOSE, TX_SET_MAXDG, and XF_FRAME and XF_CURRENT, which fill PIN.
-/

namespace Sys2Proof.Machine

/-! ### Serialization -/

/-- `enc(q)` (rule R196): an 11-byte type-3 record. -/
def encodePoint (q : WirePoint) : List Byte :=
  encodeCmd (.pt16 q.x q.y (wcol q.blank q.r) (wcol q.blank q.g) (wcol q.blank q.b))

/-- `ceil(m / per)`. -/
def ceilDiv (m per : Nat) : Nat := (m + per - 1) / per

/-- `chunk(recs, per)` (rule R199): chunk j is the concatenation of records `j*per` to `min((j+1)*per, m) - 1`. -/
def chunk (recs : List (List Byte)) (per : Nat) : List (List Byte) :=
  (List.range (ceilDiv recs.length per)).map fun j => ((recs.drop (j * per)).take per).flatten

/-- Records per datagram, `floor(TX_MAXDG / 11)` (rule R198). -/
def EncoderUnit.perChunk (e : EncoderUnit) : Nat := e.maxdg.toNat / pt16Bytes

/-- The datagrams TX_PACK would emit (rules R196, R198, R199). -/
def EncoderUnit.chunks (e : EncoderUnit) : List (List Byte) := chunk (e.pin.map encodePoint) e.perChunk

/-! ### Period -/

/-- `round_half_even(a / b)` (rules R13, R200), for `b ≥ 1`. -/
def roundHalfEven (a b : Nat) : Nat :=
  let q := a / b
  let r := a % b
  if b < 2 * r then q + 1 else if 2 * r < b then q else q + q % 2

/-- `period_us(hz)` (rule R200). -/
def periodUs (hz : Word) : Word :=
  if hz = 0 then BitVec.ofNat 32 periodMin
  else BitVec.ofNat 32 (clamp (roundHalfEven microsPerSecond hz.toNat) periodMin periodMax)

/-- The period datagram `pdg(v)` (rule R201). -/
def periodDatagram (v : Word) : List Byte := encodeCmd (.period v)

/-- The teardown datagram (rule R206). -/
def offDatagram : List Byte := encodeCmd .off

/-- Store a scan rate and its period (rules R202, R204). -/
def EncoderUnit.setRate (e : EncoderUnit) (hz : Word) : EncoderUnit := { e with scanHz := hz, period := periodUs hz }

/-! ### Session commands -/

/-- TX_OPEN (rule R202). A full TXQ changes nothing but STATUS. -/
def execTxOpen (s : State) : Host.Outcome State Fault Refusal :=
  if s.txRoom 1 then
    let e := s.enc.setRate s.arg.arg0
    .next (((s.withEnc { e.emit (periodDatagram e.period) with session := true }).setQ0 e.period).finish Status.ok)
  else .next (s.raise Status.txCapacity)

/-- TX_SET_RATE (rules R204, R205). -/
def execTxSetRate (s : State) : Host.Outcome State Fault Refusal :=
  if s.enc.session = true ∧ s.txRoom 1 = false then .next (s.raise Status.txCapacity)
  else
    let e := s.enc.setRate s.arg.arg0
    let e' := if e.session then e.emit (periodDatagram e.period) else e
    .next (((s.withEnc e').setQ0 e.period).finish Status.ok)

/-- TX_PACK (rules R198, R203, R214). -/
def execTxPack (s : State) : Host.Outcome State Fault Refusal :=
  if s.enc.session = false then .next ((s.setQ0 0).raise Status.txNoSession)
  else if s.txRoom s.enc.chunks.length then
    .next (((s.withEnc (s.enc.emitAll s.enc.chunks)).setQ0 (toReg32 .q0 s.enc.chunks.length)).finish Status.ok)
  else .next ((s.setQ0 0).raise Status.txCapacity)

/-- TX_CLOSE (rules R206, R207): the session closes even where the datagram is dropped. -/
def execTxClose (s : State) : Host.Outcome State Fault Refusal :=
  if s.enc.session = false then .next ((s.setQ0 0).finish Status.ok)
  else if s.txRoom 1 then
    .next (((s.withEnc ({ s.enc with session := false }.emit offDatagram)).setQ0 1).finish Status.ok)
  else .next (((s.withEnc { s.enc with session := false }).setQ0 0).raise Status.txCapacity)

/-- TX_SET_MAXDG (rule R208). -/
def execTxSetMaxdg (s : State) : Host.Outcome State Fault Refusal :=
  if maxdgMin ≤ s.arg.arg0.toNat ∧ s.arg.arg0.toNat ≤ maxdgMax then
    .next ((s.withEnc { s.enc with maxdg := lowHalf s.arg.arg0 }).finish Status.ok)
  else .next (s.raise Status.badArg)

/-! ### From a frame to wire points -/

/-- `toWire(p)` (rule R211): z is dropped, the 8-bit colours pass unexpanded. -/
def toWire (p : Point) : WirePoint :=
  let w := ildaToWire p.x.toInt p.y.toInt
  ⟨w.1, w.2, p.r.zeroExtend 16, p.g.zeroExtend 16, p.b.zeroExtend 16, p.blanked⟩

/-- `PIN <- [toWire(p) for p in pts]`. -/
def State.loadPin (s : State) (pts : List Point) : State := s.withEnc { s.enc with pin := pts.map toWire }

/-- XF_FRAME (rule R212). The list lookup can fail only in states no run reaches, where SEQ_N exceeds the list; the
frame named does not exist then (assumption log 8). -/
def execXfFrame (s : State) : Host.Outcome State Fault Refusal :=
  if s.seq.n.toNat ≤ s.arg.arg0.toNat then .next ((s.setQ0 0).raise Status.noFrame)
  else
    match s.seq.flist[s.arg.arg0.toNat]? with
    | none => .next ((s.setQ0 0).raise Status.noFrame)
    | some f =>
      if s.cfg.pinSize.admits f.points.length then
        .next (((s.loadPin f.points).setQ0 (toReg32 .q0 f.points.length)).finish Status.ok)
      else .next ((s.setQ0 0).raise Status.txCapacity)

/-- XF_CURRENT (rule R213): index and list are read from one state. The list lookup can fail only in states no run
reaches (assumption log 8). -/
def execXfCurrent (s : State) : Host.Outcome State Fault Refusal :=
  if s.seq.n = 0 then .next (((s.setQ0 0).setQ1 0).raise Status.noFrame)
  else
    match s.seq.flist[s.seq.index.toNat]? with
    | none => .next (((s.setQ0 0).setQ1 0).raise Status.noFrame)
    | some f =>
      if s.cfg.pinSize.admits f.points.length then
        .next ((((s.loadPin f.points).setQ0 s.seq.index).setQ1 (toReg32 .q1 f.points.length)).finish Status.ok)
      else .next (((s.setQ0 s.seq.index).setQ1 0).raise Status.txCapacity)

end Sys2Proof.Machine
end

