-- ==== Sys2Proof/Machine/HostCmds.lean ====
section
/-!
DEFINITION. The host interface commands that belong to no unit (45_host_misc.md): NOP and RD_REG, with the register map
of 10_state.md rule R47.
-/

namespace Sys2Proof.Machine

/-- The register map (rule R47): the value of register `r`, zero-extended to 32 bits, or none where the number is
unassigned (rules R48, R262). A natural is read through `toReg32` (assumption log 3). -/
def readReg (s : State) (r : Byte) : Option Word :=
  match r.toNat with
  | 0x00 => some (s.res.status.zeroExtend 32)
  | 0x01 => some s.res.q0
  | 0x02 => some s.res.q1
  | 0x03 => some s.res.q2
  | 0x04 => some s.res.q3
  | 0x08 => some s.arg.arg0
  | 0x09 => some s.arg.arg1
  | 0x0A => some s.arg.arg2
  | 0x0B => some s.arg.arg3
  | 0x10 => some (toReg32 (.reg r) s.dec.off)
  | 0x11 => some s.dec.nframes
  | 0x12 => some (s.dec.stop.zeroExtend 32)
  | 0x20 => some s.seq.state.word
  | 0x21 => some s.seq.index
  | 0x22 => some (ofBool32 s.seq.loop)
  | 0x23 => some s.seq.fps
  | 0x24 => some s.seq.speed
  | 0x25 => some (timeLo s.seq.last)
  | 0x26 => some (timeHi s.seq.last)
  | 0x27 => some s.seq.n
  | 0x30 => some (zext32 s.enc.maxdg)
  | 0x31 => some s.enc.scanHz
  | 0x32 => some s.enc.period
  | 0x33 => some (ofBool32 s.enc.session)
  | 0x34 => some s.enc.ndgram
  | 0x40 => some s.prs.received
  | 0x41 => some s.prs.valid
  | 0x42 => some s.prs.invalid
  | 0x48 => some (toReg32 (.reg r) s.prs.pkt.points.length)
  | 0x49 => some (toReg32 (.reg r) s.prs.pkt.cmds.length)
  | 0x4A => some (ofBool32 s.prs.pkt.hasPeriod)
  | 0x4B => some (s.prs.pkt.period.getD 0)
  | 0x4C => some (timeLo s.prs.pkt.time)
  | 0x4D => some (timeHi s.prs.pkt.time)
  | 0x4E => some (toReg32 (.reg r) s.prs.pkt.len)
  | 0x4F => some (toReg32 (.reg r) s.prs.pkt.endOff)
  | 0x50 => some (s.prs.pkt.stop.zeroExtend 32)
  | 0x60 => some (toReg32 (.reg r) s.enc.pin.length)
  | _ => none

/-- NOP (rule R260). -/
def execNop (s : State) : Host.Outcome State Fault Refusal := .next (s.finish Status.ok)

/-- RD_REG (rules R261, R262): the register is read before Q0 and STATUS are written. So a repeated RD_REG of STATUS
after a code other than OK answers that code first and OK then, as rule R261 and vector V6.4 have it, although rule R72
lists RD_REG as idempotent; no ruling settles the two (DESIGN CHOICE, assumption log 15). The register number is ARG0's
low byte and bits 31..8 are ignored, as rule R261 has it, although the table of 30_encoding.md rule R110 names the
operand ARG0 alone, which rule R111 reads as all 32 bits (DEDUCED, assumption log 17). -/
def execRdReg (s : State) : Host.Outcome State Fault Refusal :=
  match readReg s (lowByte s.arg.arg0) with
  | some v => .next ((s.setQ0 v).finish Status.ok)
  | none => .next ((s.setQ0 0).raise Status.badArg)

end Sys2Proof.Machine
end

