-- ==== Sys2Proof/Machine/IldaDecoder.lean ====
section
/-!
DEFINITION. The ILDA decoder (40_ilda_decoder.md): the five format codes as the instructions of the section stream, and
the command DECODE_ILDA, which runs them over IBUF in one atomic step. Inside a session PAL, FSTORE, DEC_OFF and
DEC_STOP hold the pseudocode's palette, `frames`, `off` and `stop` (DEC_STOP = 0 is its `stop = none`), so a section is
a transition of the decoder's own state (assumption log 5).
-/

namespace Sys2Proof.Machine

/-- The session's start (rule R120): white palette, no frames, cursor at 0, no stop. -/
def DecoderUnit.startSession (d : DecoderUnit) : DecoderUnit :=
  { d with off := 0, stop := 0x00, pal := whitePalette, fstore := [] }

/-- The session stops with a code. -/
def DecoderUnit.stopWith (d : DecoderUnit) (code : Byte) : DecoderUnit := { d with stop := code }

/-- The cursor passes a section of `k` records of `rs` bytes; fewer than the count is a truncation (rules R124,
R126). -/
def DecoderUnit.pass (d : DecoderUnit) (h : Header) (rs k : Nat) : DecoderUnit :=
  { d with
    off := d.off + hdrBytes + k * rs
    stop := if k < h.count.toNat then Status.decTruncated else d.stop }

/-- Append one frame to the store (rule R127). -/
def DecoderUnit.addFrame (d : DecoderUnit) (h : Header) (pts : List Point) : DecoderUnit :=
  { d with fstore := d.fstore ++ [⟨h.fmt, h, pts⟩] }

/-- Replace palette entries from index 0 on (rule R133). -/
def DecoderUnit.loadPal (d : DecoderUnit) (recs : List Rgb) : DecoderUnit := { d with pal := palLoad 0 recs d.pal }

/-- A frame of `k` points fits the frame store (rule R129). -/
def DecoderUnit.frameRoom (d : DecoderUnit) (c : Config) (k : Nat) : Bool :=
  c.maxFrames.admits (d.fstore.length + 1) && c.maxPoints.admits (pointsStored d.fstore + k)

/-- A point section: store one frame and pass on (rule R127), or stop with nothing of the section stored (rule R129). -/
def DecoderUnit.pointSection (d : DecoderUnit) (c : Config) (h : Header) (rs : Nat) (pts : List Point) : DecoderUnit :=
  if d.frameRoom c pts.length then
    (d.addFrame h pts).pass h rs pts.length
  else d.stopWith Status.decCapacity

/-! ### Points -/

/-- The point of a format-0 record: the palette is read when the record is decoded (rules R130, R132). -/
def pointOfIndexed3 (pal : Vector Rgb 256) (p : Indexed3) : Point :=
  let c := palGet pal p.ci
  ⟨p.x, p.y, p.z, p.status, c.r, c.g, c.b⟩

/-- The point of a format-1 record: z = 0 (rule R131). -/
def pointOfIndexed2 (pal : Vector Rgb 256) (p : Indexed2) : Point :=
  let c := palGet pal p.ci
  ⟨p.x, p.y, 0, p.status, c.r, c.g, c.b⟩

/-- The point of a format-4 record (rule R134). -/
def pointOfTrue3 (p : True3) : Point := ⟨p.x, p.y, p.z, p.status, p.r, p.g, p.b⟩

/-- The point of a format-5 record: z = 0 (rule R135). -/
def pointOfTrue2 (p : True2) : Point := ⟨p.x, p.y, 0, p.status, p.r, p.g, p.b⟩

/-! ### The five format codes -/

/-- Format 0 on the decoder's state (rule R130). -/
def DecoderUnit.fmt0 (d : DecoderUnit) (c : Config) (h : Header) (recs : List Indexed3) : DecoderUnit :=
  d.pointSection c h 8 (recs.map (pointOfIndexed3 d.pal))

/-- Format 1 on the decoder's state (rule R131). -/
def DecoderUnit.fmt1 (d : DecoderUnit) (c : Config) (h : Header) (recs : List Indexed2) : DecoderUnit :=
  d.pointSection c h 6 (recs.map (pointOfIndexed2 d.pal))

/-- Format 2 on the decoder's state (rule R133): the palette alone, no frame. -/
def DecoderUnit.fmt2 (d : DecoderUnit) (h : Header) (recs : List Rgb) : DecoderUnit :=
  (d.loadPal recs).pass h 3 recs.length

/-- Format 4 on the decoder's state (rule R134). -/
def DecoderUnit.fmt4 (d : DecoderUnit) (c : Config) (h : Header) (recs : List True3) : DecoderUnit :=
  d.pointSection c h 10 (recs.map pointOfTrue3)

/-- Format 5 on the decoder's state (rule R135). -/
def DecoderUnit.fmt5 (d : DecoderUnit) (c : Config) (h : Header) (recs : List True2) : DecoderUnit :=
  d.pointSection c h 8 (recs.map pointOfTrue2)

/-- ILDA_FMT0_INDEXED_3D. -/
def execIldaFmt0 (h : Header) (recs : List Indexed3) (s : State) : Host.Outcome State Fault Refusal :=
  .next (s.withDec (s.dec.fmt0 s.cfg h recs))

/-- ILDA_FMT1_INDEXED_2D. -/
def execIldaFmt1 (h : Header) (recs : List Indexed2) (s : State) : Host.Outcome State Fault Refusal :=
  .next (s.withDec (s.dec.fmt1 s.cfg h recs))

/-- ILDA_FMT2_PALETTE. -/
def execIldaFmt2 (h : Header) (recs : List Rgb) (s : State) : Host.Outcome State Fault Refusal :=
  .next (s.withDec (s.dec.fmt2 h recs))

/-- ILDA_FMT4_TRUECOLOR_3D. -/
def execIldaFmt4 (h : Header) (recs : List True3) (s : State) : Host.Outcome State Fault Refusal :=
  .next (s.withDec (s.dec.fmt4 s.cfg h recs))

/-- ILDA_FMT5_TRUECOLOR_2D. -/
def execIldaFmt5 (h : Header) (recs : List True2) (s : State) : Host.Outcome State Fault Refusal :=
  .next (s.withDec (s.dec.fmt5 s.cfg h recs))

/-! ### The command -/

/-- One section of the stream, by its format code (rule R125). -/
def DecoderUnit.runSec (d : DecoderUnit) (c : Config) : Sec → DecoderUnit
  | .fmt0 h recs => d.fmt0 c h recs
  | .fmt1 h recs => d.fmt1 c h recs
  | .fmt2 h recs => d.fmt2 h recs
  | .fmt4 h recs => d.fmt4 c h recs
  | .fmt5 h recs => d.fmt5 c h recs

/-- The loop of rule R125, at most `fuel` sections. Every section that does not stop the decode moves the cursor on by
at least 32 bytes, so `len(IBUF) + 1` rounds always reach a stop. -/
def decodeLoop (c : Config) : Nat → DecoderUnit → DecoderUnit
  | 0, d => d
  | fuel + 1, d =>
    match decodeSec (d.ibuf.drop d.off) with
    | .error e => d.stopWith (Status.ofSecReject e)
    | .ok sec =>
      let d' := d.runSec c sec
      if d'.stop = 0x00 then decodeLoop c fuel d' else d'

/-- The whole decode of IBUF (rules R120, R125). -/
def DecoderUnit.decodeImage (d : DecoderUnit) (c : Config) : DecoderUnit :=
  decodeLoop c (d.ibuf.length + 1) d.startSession

/-- DECODE_ILDA (rule R125). -/
def execDecodeIlda (s : State) : Host.Outcome State Fault Refusal :=
  let d := s.dec.decodeImage s.cfg
  .next ((((s.withDec { d with nframes := toReg32 .decNframes d.fstore.length }).setQ0
    (toReg32 .q0 d.fstore.length)).setQ1 (toReg32 .q1 d.off)).finish d.stop)

end Sys2Proof.Machine
end

