-- ==== Sys2Proof/Machine/IwpParser.lean ====
section
/-!
DEFINITION. The IWP parser (42_iwp_decode.md): the four command types as the instructions of the datagram stream, and
the command PARSE_IWP, which runs them over RBUF in one atomic step. Inside a parse PKT holds the pseudocode's `pts`,
`cmds`, `per` and, in PKT.end, the offset `p` (assumption log 5).
-/

namespace Sys2Proof.Machine

/-- Append a raw command and move the offset past it (rule R175). -/
def Packet.take (p : Packet) (c : RawCmd) : Packet :=
  { p with cmds := p.cmds ++ [c], endOff := p.endOff + c.length }

/-- Append a point (rules R182, R183). -/
def Packet.addPoint (p : Packet) (q : WirePoint) : Packet := { p with points := p.points ++ [q] }

/-- Type 0 (rule R180): no point, and parsing continues. -/
def Packet.cmdOff (p : Packet) : Packet := p.take .off

/-- Type 1 (rule R181): the last period of the packet wins; the value is not clamped. -/
def Packet.cmdPeriod (p : Packet) (v : Word) : Packet := { p.take (.period v) with period := some v }

/-- Type 2 (rule R182): colours stay 0..255, zero-extended. -/
def Packet.cmdPt8 (p : Packet) (x y : Half) (r g b : Byte) : Packet :=
  (p.take (.pt8 x y r g b)).addPoint
    ⟨x, y, r.zeroExtend 16, g.zeroExtend 16, b.zeroExtend 16, blankOfPt8 r g b⟩

/-- Type 3 (rule R183). -/
def Packet.cmdPt16 (p : Packet) (x y r g b : Half) : Packet :=
  (p.take (.pt16 x y r g b)).addPoint ⟨x, y, r, g, b, blankOfPt16 r g b⟩

/-- Replace PKT. -/
def State.withPkt (s : State) (p : Packet) : State := s.withPrs { s.prs with pkt := p }

/-- IWP_OFF. -/
def execIwpOff (s : State) : Host.Outcome State Fault Refusal := .next (s.withPkt s.prs.pkt.cmdOff)

/-- IWP_PERIOD. -/
def execIwpPeriod (v : Word) (s : State) : Host.Outcome State Fault Refusal :=
  .next (s.withPkt (s.prs.pkt.cmdPeriod v))

/-- IWP_PT8. -/
def execIwpPt8 (x y : Half) (r g b : Byte) (s : State) : Host.Outcome State Fault Refusal :=
  .next (s.withPkt (s.prs.pkt.cmdPt8 x y r g b))

/-- IWP_PT16. -/
def execIwpPt16 (x y r g b : Half) (s : State) : Host.Outcome State Fault Refusal :=
  .next (s.withPkt (s.prs.pkt.cmdPt16 x y r g b))

/-! ### The command -/

/-- One command of the stream, by its type (rule R175). -/
def Packet.runCmd (p : Packet) : RawCmd → Packet
  | .off => p.cmdOff
  | .period v => p.cmdPeriod v
  | .pt8 x y r g b => p.cmdPt8 x y r g b
  | .pt16 x y r g b => p.cmdPt16 x y r g b

/-- The loop of rule R175 over the datagram `buf`, at most `fuel` commands. Every command moves the offset on by at
least one byte, so `len(RBUF) + 1` rounds always reach a stop. -/
def parseLoop (buf : List Byte) : Nat → Packet → Packet
  | 0, p => p
  | fuel + 1, p =>
    match decodeCmd (buf.drop p.endOff) with
    | .error e => { p with stop := Status.ofCmdReject e }
    | .ok c => parseLoop buf fuel (p.runCmd c)

/-- The packet of a datagram received at `now` (rules R175, R185). -/
def parseDatagram (buf : List Byte) (now : Time) : Packet :=
  parseLoop buf (buf.length + 1) { Packet.initial with time := now, len := buf.length }

/-- PARSE_IWP (rules R175, R176, R184). -/
def execParseIwp (now : Time) (s : State) : Host.Outcome State Fault Refusal :=
  if s.prs.rbuf.length = 0 then
    .next ((s.withPrs { s.prs with received := s.prs.received + 1, invalid := s.prs.invalid + 1 }).raise
      Status.parseEmpty)
  else
    let p := parseDatagram s.prs.rbuf now
    .next ((((s.withPrs { s.prs with received := s.prs.received + 1, valid := s.prs.valid + 1, pkt := p }).setQ0
      (toReg32 .q0 p.points.length)).setQ1 (toReg32 .q1 p.cmds.length)).finish p.stop)

end Sys2Proof.Machine
end

