-- ==== Sys2Proof/Machine/Sequencer.lean ====
section
/-!
DEFINITION. The frame sequencer (44_sequencer.md): the advance function, the due test, and the commands SEQ_LOAD to
SEQ_SNAPSHOT. Time enters only as NOW.
-/

namespace Sys2Proof.Machine

/-- `adv()` (rule R230), called only when SEQ_N ≥ 1: the next frame, a wrap, or a clamp that pauses a playing
sequencer. -/
def SequencerUnit.adv (q : SequencerUnit) : SequencerUnit :=
  if q.index.toNat + 1 < q.n.toNat then { q with index := q.index + 1 }
  else if q.loop then { q with index := 0 }
  else { q with index := q.n - 1, state := if q.state = .playing then .paused else q.state }

/-- `elapsed(now)` (rule R231): a time that goes backwards counts as 0. -/
def SequencerUnit.elapsed (q : SequencerUnit) (now : Time) : Nat :=
  if q.last.toNat ≤ now.toNat then now.toNat - q.last.toNat else 0

/-- `due(now)` (rule R231), an exact comparison of integers. -/
def SequencerUnit.due (q : SequencerUnit) (now : Time) : Bool :=
  decide (dueThreshold ≤ q.elapsed now * q.fps.toNat * q.speed.toNat)

/-- SEQ_UPDATE advances (rule R232). -/
def SequencerUnit.advances (q : SequencerUnit) (now : Time) : Bool :=
  decide (q.state = .playing) && decide (1 ≤ q.n.toNat) && q.due now

/-- SEQ_LOAD (rule R225): a copy by value. -/
def execSeqLoad (s : State) : Host.Outcome State Fault Refusal :=
  let n := toReg32 .seqN s.dec.fstore.length
  .next (((s.withSeq { s.seq with flist := s.dec.fstore, n := n, index := 0, state := .stopped }).setQ0 n).finish
    Status.ok)

/-- SEQ_PLAY (rule R227): playing again does not restart the interval. -/
def execSeqPlay (now : Time) (s : State) : Host.Outcome State Fault Refusal :=
  let q := if s.seq.state = .playing then s.seq else { s.seq with state := .playing, last := now }
  .next (((s.withSeq q).setQ0 q.state.word).finish Status.ok)

/-- SEQ_PAUSE (rule R228). -/
def execSeqPause (s : State) : Host.Outcome State Fault Refusal :=
  let q := if s.seq.state = .playing then { s.seq with state := .paused } else s.seq
  .next (((s.withSeq q).setQ0 q.state.word).finish Status.ok)

/-- SEQ_STOP (rule R229). -/
def execSeqStop (s : State) : Host.Outcome State Fault Refusal :=
  let q := { s.seq with state := .stopped, index := 0 }
  .next (((s.withSeq q).setQ0 q.state.word).finish Status.ok)

/-- SEQ_UPDATE (rule R232): at most one frame a command, and the new baseline is NOW. -/
def execSeqUpdate (now : Time) (s : State) : Host.Outcome State Fault Refusal :=
  let q := if s.seq.advances now then { s.seq.adv with last := now } else s.seq
  .next ((((s.withSeq q).setQ0 (ofBool32 (decide (q.index ≠ s.seq.index)))).setQ1 q.index).finish Status.ok)

/-- SEQ_NEXT (rule R233). -/
def execSeqNext (s : State) : Host.Outcome State Fault Refusal :=
  let q := if 1 ≤ s.seq.n.toNat then s.seq.adv else s.seq
  .next (((s.withSeq q).setQ0 q.index).finish Status.ok)

/-- SEQ_PREV (rule R234): from index 0 it wraps whatever SEQ_LOOP holds. -/
def execSeqPrev (s : State) : Host.Outcome State Fault Refusal :=
  let q :=
    if 1 ≤ s.seq.n.toNat then
      { s.seq with index := BitVec.ofNat 32 ((s.seq.index.toNat + s.seq.n.toNat - 1) % s.seq.n.toNat) }
    else s.seq
  .next (((s.withSeq q).setQ0 q.index).finish Status.ok)

/-- SEQ_SET_LOOP (rule R235). -/
def execSeqSetLoop (s : State) : Host.Outcome State Fault Refusal :=
  let l := lowBit s.arg.arg0
  .next (((s.withSeq { s.seq with loop := l }).setQ0 (ofBool32 l)).finish Status.ok)

/-- SEQ_SET_FPS (rule R236): clamped on write, never refused. -/
def execSeqSetFps (s : State) : Host.Outcome State Fault Refusal :=
  let v := BitVec.ofNat 32 (clamp s.arg.arg0.toNat fpsMin fpsMax)
  .next (((s.withSeq { s.seq with fps := v }).setQ0 v).finish Status.ok)

/-- SEQ_SET_SPEED (rule R237): clamped on write, never refused. -/
def execSeqSetSpeed (s : State) : Host.Outcome State Fault Refusal :=
  let v := BitVec.ofNat 32 (clamp s.arg.arg0.toNat speedMin speedMax)
  .next (((s.withSeq { s.seq with speed := v }).setQ0 v).finish Status.ok)

/-- SEQ_SNAPSHOT (rule R238): one atomic read. -/
def execSeqSnapshot (s : State) : Host.Outcome State Fault Refusal :=
  .next ((((s.setQ0 s.seq.index).setQ1 s.seq.n).setQ2 s.seq.state.word).finish Status.ok)

end Sys2Proof.Machine
end

