-- ==== Sys2Proof/Machine/Dispatch.lean ====
section
/-!
DEFINITION. The dispatch: one arm per constructor of `Instr`, each one direct call of its meaning.
-/

namespace Sys2Proof.Machine

def exec (i : Instr) (s : State) : Host.Outcome State Fault Refusal :=
  match i with
  | .ildaFmt0 hdr recs => Sys2Proof.Machine.execIldaFmt0 hdr recs s
  | .ildaFmt1 hdr recs => Sys2Proof.Machine.execIldaFmt1 hdr recs s
  | .ildaFmt2 hdr recs => Sys2Proof.Machine.execIldaFmt2 hdr recs s
  | .ildaFmt4 hdr recs => Sys2Proof.Machine.execIldaFmt4 hdr recs s
  | .ildaFmt5 hdr recs => Sys2Proof.Machine.execIldaFmt5 hdr recs s
  | .iwpOff => Sys2Proof.Machine.execIwpOff s
  | .iwpPeriod v => Sys2Proof.Machine.execIwpPeriod v s
  | .iwpPt8 x y r g b => Sys2Proof.Machine.execIwpPt8 x y r g b s
  | .iwpPt16 x y r g b => Sys2Proof.Machine.execIwpPt16 x y r g b s
  | .nop => Sys2Proof.Machine.execNop s
  | .decodeIlda => Sys2Proof.Machine.execDecodeIlda s
  | .xfI2w => Sys2Proof.Machine.execXfI2w s
  | .xfW2i => Sys2Proof.Machine.execXfW2i s
  | .xfW2s => Sys2Proof.Machine.execXfW2s s
  | .xfExp => Sys2Proof.Machine.execXfExp s
  | .xfNar => Sys2Proof.Machine.execXfNar s
  | .xfWcol => Sys2Proof.Machine.execXfWcol s
  | .xfFrame => Sys2Proof.Machine.execXfFrame s
  | .xfCurrent => Sys2Proof.Machine.execXfCurrent s
  | .parseIwp now => Sys2Proof.Machine.execParseIwp now s
  | .txOpen => Sys2Proof.Machine.execTxOpen s
  | .txSetRate => Sys2Proof.Machine.execTxSetRate s
  | .txPack => Sys2Proof.Machine.execTxPack s
  | .txClose => Sys2Proof.Machine.execTxClose s
  | .txSetMaxdg => Sys2Proof.Machine.execTxSetMaxdg s
  | .seqLoad => Sys2Proof.Machine.execSeqLoad s
  | .seqPlay now => Sys2Proof.Machine.execSeqPlay now s
  | .seqPause => Sys2Proof.Machine.execSeqPause s
  | .seqStop => Sys2Proof.Machine.execSeqStop s
  | .seqUpdate now => Sys2Proof.Machine.execSeqUpdate now s
  | .seqNext => Sys2Proof.Machine.execSeqNext s
  | .seqPrev => Sys2Proof.Machine.execSeqPrev s
  | .seqSetFps => Sys2Proof.Machine.execSeqSetFps s
  | .seqSetSpeed => Sys2Proof.Machine.execSeqSetSpeed s
  | .seqSetLoop => Sys2Proof.Machine.execSeqSetLoop s
  | .seqSnapshot => Sys2Proof.Machine.execSeqSnapshot s
  | .rdReg => Sys2Proof.Machine.execRdReg s

end Sys2Proof.Machine
end

