-- ==== Sys2Proof/Machine/HostPort.lean ====
section
/-!
DEFINITION. The host port (45_host_misc.md rule R264, 20_memory.md rules R71 and R76): what one step of the host does to
the block, the placing of a table word at the port, and the assembler notation of host programs (30_encoding.md rules
R113 and R114).
-/

namespace Sys2Proof.Machine

/-- The unit an issue presents to the decoder: the opcode byte with the NOW sampled with it (rules R23, R110). -/
def issueUnit (op : Byte) (now : Time) : CodeUnit := ⟨.hostCmd, [op], now⟩

/-- Issue one command: run the instruction the opcode stands for; an unassigned opcode writes STATUS REFUSED and
nothing else (rules R112, R263). -/
def issue (op : Byte) (now : Time) (s : State) : Host.Outcome State Fault Refusal :=
  match decode (issueUnit op now) with
  | .ok i => exec i s
  | .error _ => .next (s.raise Status.refused)

/-- Write IBUF as a whole (rules R61, R71). -/
def writeIbuf (bytes : List Byte) (s : State) : Host.Outcome State Fault Refusal :=
  if s.cfg.ibufSize.admits bytes.length then .next (s.withDec { s.dec with ibuf := bytes })
  else .fault (.hostWriteOverCapacity .ibuf)

/-- Write RBUF as a whole (rules R64, R71). -/
def writeRbuf (bytes : List Byte) (s : State) : Host.Outcome State Fault Refusal :=
  if s.cfg.rbufSize.admits bytes.length then .next (s.withPrs { s.prs with rbuf := bytes })
  else .fault (.hostWriteOverCapacity .rbuf)

/-- Write PIN as a whole (rules R65, R71). -/
def writePin (pts : List WirePoint) (s : State) : Host.Outcome State Fault Refusal :=
  if s.cfg.pinSize.admits pts.length then .next (s.withEnc { s.enc with pin := pts })
  else .fault (.hostWriteOverCapacity .pin)

/-- Write one ARG register (rules R22, R71). -/
def writeArg (i : Fin 4) (v : Word) (s : State) : Host.Outcome State Fault Refusal :=
  .next { s with arg := s.arg.write i v }

/-- What a host read answers (rules R60, R63, R71): a register's value as RD_REG reads it (rule R47), a whole space, or
one entry of it. A place that names nothing, which no rule speaks of, answers none (assumption log 2). -/
def readPlace (s : State) (p : ReadPlace) : Option HostValue :=
  match p with
  | .reg num => (readReg s num).map .word
  | .ibuf => some (.bytes s.dec.ibuf)
  | .rbuf => some (.bytes s.prs.rbuf)
  | .pal => some (.palette s.dec.pal)
  | .palEntry i => some (.colour (palGet s.dec.pal i))
  | .fstore => some (.frames s.dec.fstore)
  | .frame i => (s.dec.fstore[i]?).map .frame
  | .flist => some (.frames s.seq.flist)
  | .pktPoints => some (.wirePoints s.prs.pkt.points)
  | .pktCmds => some (.cmds s.prs.pkt.cmds)
  | .pin => some (.wirePoints s.enc.pin)
  | .txq => some (.datagrams s.enc.txq)

/-- Read a register or a space, as one atomic step without side effect (rules R71, R72, R76). -/
def hostRead (p : ReadPlace) (s : State) : Host.Outcome State Fault Refusal := .next (s.withAnswer (readPlace s p))

/-- One atomic step of the host at the port (rules R71, R264). -/
def hostStep (h : HostStep) (s : State) : Host.Outcome State Fault Refusal :=
  match h with
  | .issue op now => issue op now s
  | .writeArg i v => writeArg i v s
  | .writeIbuf bytes => writeIbuf bytes s
  | .writeRbuf bytes => writeRbuf bytes s
  | .writePin pts => writePin pts s
  | .read p => hostRead p s

/-- The next step of the host, taken from the port. -/
def fetch (s : State) : Option (HostStep × State) :=
  match s.port with
  | [] => none
  | h :: rest => some (h, { s with port := rest })

/-- The host presents `h` next. -/
def State.present (s : State) (h : HostStep) : State := { s with port := h :: s.port }

/-- A unit placed where the next step runs it: a host command at the port; a section as the whole of IBUF, with
DECODE_ILDA at the port; an IWP command as the whole of RBUF, with PARSE_IWP at the port (assumption log 6 and 7). -/
def State.placeUnit (s : State) (u : CodeUnit) : State :=
  match u.format with
  | .ildaSection => (s.withDec { s.dec with ibuf := u.bytes }).present (.issue 0x01 u.now)
  | .iwpCmd => (s.withPrs { s.prs with rbuf := u.bytes }).present (.issue 0x20 u.now)
  | .hostCmd => s.present (.issue (byteAt u.bytes 0) u.now)

/-! ### Host programs -/

/-- The ARG writes of a program line, from register `i` on. -/
def argWrites : Nat → List Word → List HostStep
  | _, [] => []
  | i, v :: vs => if h : i < 4 then .writeArg ⟨i, h⟩ v :: argWrites (i + 1) vs else []

/-- A program line `MNEMONIC a0, a1, ... @now=T` (rule R113): place the values in ARG0.., then issue. The rules omit
`@now` for a command that ignores NOW (rule R16) and yet give every command a NOW that does not decrease (rules R23,
R305); the NOW of such a line is not stated, and the model makes it an argument (DESIGN CHOICE, assumption log 16). -/
def line (op : Byte) (args : List Word) (now : Time) : List HostStep := argWrites 0 args ++ [.issue op now]

/-- `SEND_CURRENT` (rule R114): XF_CURRENT then TX_PACK. The NOW of each issue is the host's, since the rules state none
(DESIGN CHOICE, assumption log 16). -/
def sendCurrent (now now' : Time) : List HostStep := line 0x17 [] now ++ line 0x32 [] now'

/-- `SEND_FRAME i` (rule R114): XF_FRAME i then TX_PACK, each with the host's NOW (DESIGN CHOICE, assumption log 16). -/
def sendFrame (i : Word) (now now' : Time) : List HostStep := line 0x16 [i] now ++ line 0x32 [] now'

/-- `CONNECT hz` (rule R114), with the host's NOW (DESIGN CHOICE, assumption log 16). -/
def connect (hz : Word) (now : Time) : List HostStep := line 0x30 [hz] now

/-- `DISCONNECT` (rule R114), with the host's NOW (DESIGN CHOICE, assumption log 16). -/
def disconnect (now : Time) : List HostStep := line 0x33 [] now

end Sys2Proof.Machine
end

