-- ==== Sys2Proof/Machine/Step.lean ====
section
/-!
DEFINITION. One step of the machine: the next step of the serial order of 20_memory.md rule R76, taken from the port.
The block runs no program of its own, so with nothing at the port it waits (70_reset_and_hazards.md rule R295).
-/

namespace Sys2Proof.Machine

/-- One atomic step (rules R7, R76, R264). -/
def step (s : State) : Host.Outcome State Fault Refusal :=
  match fetch s with
  | none => .next s
  | some (h, s') => hostStep h s'

/-- `s` with the instruction of a table word placed where the next step runs it. -/
def State.withFetchWord (s : State) (nbits w : Nat) : State := s.placeUnit (tableUnit nbits w)

end Sys2Proof.Machine
end

