-- ==== Sys2Proof/Safety.lean ====
section
/-!
DEFINITION. The terms claims are stated in: the invariants of 10_state.md rule R51 and of the register map (rule R47),
the legality of the transmit stream (43_iwp_encode.md rule R203), the codes and registers each command may write, and
the duties of the host software (20_memory.md rule R77, 70_reset_and_hazards.md rules R303 and R305), which the block
does not enforce.
-/

namespace Sys2Proof.Safety

open Sys2Proof.Machine

/-! ### Invariants (rule R51) -/

/-- A stored frame: a point format, its own header, and no more points than the header's count (rules R29, R51). -/
def FrameOk (f : Frame) : Prop :=
  (f.fmt = 0 ∨ f.fmt = 1 ∨ f.fmt = 4 ∨ f.fmt = 5) ∧ f.hdr.fmt = f.fmt ∧ f.points.length ≤ f.hdr.count.toNat

/-- The decoder's registers and frame store (rules R26, R47, R51, R60). -/
structure DecoderInv (c : Config) (d : DecoderUnit) : Prop where
  nframes : d.nframes = toReg32 .decNframes d.fstore.length
  stop : d.stop.toNat ≤ 5
  frames : ∀ f ∈ d.fstore, FrameOk f
  frameCap : c.maxFrames.admits d.fstore.length = true
  pointCap : c.maxPoints.admits (pointsStored d.fstore) = true

/-- The last packet (rules R33, R47, R185). -/
structure PacketInv (p : Packet) : Prop where
  stop : p.stop = 0x00 ∨ p.stop = Status.parseEnd ∨ p.stop = Status.parseTruncated ∨ p.stop = Status.parseUnknownCmd
  endOff : p.endOff ≤ p.len
  points : p.points.length ≤ p.cmds.length
  cmds : p.cmds.length ≤ p.endOff

/-- A datagram of the encoder: type-3 records alone, at least one, or exactly one type-1 command, or exactly one type-0
command (30_encoding.md rule R108). -/
def DatagramOk (d : List Byte) : Prop :=
  (∃ qs : List WirePoint, qs ≠ [] ∧ d = qs.flatMap encodePoint) ∨ (∃ v, d = [0x01] ++ put32 v) ∨ d = [0x00]

/-- The encoder's registers and output (rules R37, R38, R51, R60, R108). -/
structure EncoderInv (c : Config) (e : EncoderUnit) : Prop where
  maxdg : 11 ≤ e.maxdg.toNat
  period : e.period = periodUs e.scanHz
  pinCap : c.pinSize.admits e.pin.length = true
  txqCap : c.txqCap.admits e.txq.length = true
  datagrams : ∀ d ∈ e.txq, DatagramOk d

/-- The sequencer's registers (rules R40, R42, R43, R45, R51). SEQ_STATE's value 3 is excluded by its type. -/
structure SequencerInv (q : SequencerUnit) : Prop where
  count : q.n = toReg32 .seqN q.flist.length
  index : (q.n = 0 ∧ q.index = 0) ∨ q.index.toNat < q.n.toNat
  fps : 100 ≤ q.fps.toNat ∧ q.fps.toNat ≤ 1000000
  speed : 100 ≤ q.speed.toNat ∧ q.speed.toNat ≤ 10000
  frames : ∀ f ∈ q.flist, FrameOk f

/-- Every invariant of rule R51, with the legal values of rule R47 and the capacities of rule R60. -/
structure Inv (s : State) : Prop where
  status : s.res.status ∈ Status.all
  memory : Memory.wf s = true
  dec : DecoderInv s.cfg s.dec
  pkt : PacketInv s.prs.pkt
  enc : EncoderInv s.cfg s.enc
  seq : SequencerInv s.seq

/-! ### The transmit stream (rule R203) -/

/-- Scan the datagrams of TXQ in order. The flag is "a period datagram has been sent in this session": a type-1 datagram
sets it, a type-0 datagram clears it, and a type-3 datagram is legal only while it holds. -/
def scanStream : Bool → List (List Byte) → Option Bool
  | sent, [] => some sent
  | sent, d :: ds =>
    match d.head? with
    | none => none
    | some c =>
      if c = 0x01 then scanStream true ds
      else if c = 0x00 then scanStream false ds
      else if c = 0x03 ∧ sent = true then scanStream sent ds
      else none

/-- Every datagram of points in TXQ follows a period datagram of its session, and an open session has sent one. -/
def PeriodFirst (e : EncoderUnit) : Prop :=
  ∃ sent, scanStream false e.txq = some sent ∧ (e.session = true → sent = true)

/-! ### Runs of stream instructions -/

/-- Run instructions one after another, stopping where one stops. -/
def execAll : List Instr → State → Host.Outcome State Fault Refusal
  | [], s => .next s
  | i :: is, s =>
    match exec i s with
    | .next t => execAll is t
    | .fault r => .fault r
    | .refused r => .refused r

/-- The header of a section. -/
def secHeader : Sec → Header
  | .fmt0 h _ => h
  | .fmt1 h _ => h
  | .fmt2 h _ => h
  | .fmt4 h _ => h
  | .fmt5 h _ => h

/-- The number of records a section carries. -/
def secRecords : Sec → Nat
  | .fmt0 _ recs => recs.length
  | .fmt1 _ recs => recs.length
  | .fmt2 _ recs => recs.length
  | .fmt4 _ recs => recs.length
  | .fmt5 _ recs => recs.length

/-- A whole section: its header names its format code and its count is the number of its records. -/
def SecComplete (x : Sec) : Prop :=
  x.toInstr.wellFormed = true ∧ secRecords x = (secHeader x).count.toNat

/-- The frames a section asks room for: a palette section asks for none (rules R127, R133). -/
def secFrames : Sec → Nat
  | .fmt0 _ _ => 1
  | .fmt1 _ _ => 1
  | .fmt2 _ _ => 0
  | .fmt4 _ _ => 1
  | .fmt5 _ _ => 1

/-- The points a section asks room for. -/
def secPoints : Sec → Nat
  | .fmt0 _ recs => recs.length
  | .fmt1 _ recs => recs.length
  | .fmt2 _ _ => 0
  | .fmt4 _ recs => recs.length
  | .fmt5 _ recs => recs.length

/-- The frames and points of the sections fit MAX_FRAMES and MAX_POINTS (rule R129). Both counts only grow along the
list, so this is the test of rule R129 passed at every section. -/
def SectionsFit (c : Config) (secs : List Sec) : Prop :=
  c.maxFrames.admits (secs.map secFrames).sum = true ∧ c.maxPoints.admits (secs.map secPoints).sum = true

/-- The point of a raw command, if it is a point command (42_iwp_decode.md rules R182, R183). -/
def pointOfCmd : RawCmd → Option WirePoint
  | .off => none
  | .period _ => none
  | .pt8 x y r g b => some ⟨x, y, r.zeroExtend 16, g.zeroExtend 16, b.zeroExtend 16, false⟩
  | .pt16 x y r g b => some ⟨x, y, r, g, b, decide (r = 0 ∧ g = 0 ∧ b = 0)⟩

/-- The value of the last period command of a list, from an initial one (rule R181). -/
def lastPeriod : Option Word → List RawCmd → Option Word
  | v, [] => v
  | v, .off :: cs => lastPeriod v cs
  | _, .period w :: cs => lastPeriod (some w) cs
  | v, .pt8 _ _ _ _ _ :: cs => lastPeriod v cs
  | v, .pt16 _ _ _ _ _ :: cs => lastPeriod v cs

/-- What a wire point becomes on the wire and back: the channels forced or expanded, the blank flag inferred from them
(rules R183, R187, R196). -/
def throughWire (q : WirePoint) : WirePoint :=
  let r := wcol q.blank q.r
  let g := wcol q.blank q.g
  let b := wcol q.blank q.b
  ⟨q.x, q.y, r, g, b, decide (r = 0 ∧ g = 0 ∧ b = 0)⟩

/-! ### What each command may write -/

/-- The instruction is a host command, not an instruction of the ILDA or IWP stream. -/
def isHostCommand (i : Instr) : Bool := decide ((encode i).format = .hostCmd)

/-- The STATUS codes a host command may end with (60_exceptions.md rule R270, the column "commands"). -/
def endCodes (i : Instr) : List Byte :=
  match i with
  | .ildaFmt0 _ _ => []
  | .ildaFmt1 _ _ => []
  | .ildaFmt2 _ _ => []
  | .ildaFmt4 _ _ => []
  | .ildaFmt5 _ _ => []
  | .iwpOff => []
  | .iwpPeriod _ => []
  | .iwpPt8 _ _ _ _ _ => []
  | .iwpPt16 _ _ _ _ _ => []
  | .decodeIlda => [0x01, 0x02, 0x03, 0x04, 0x05]
  | .parseIwp _ => [0x10, 0x11, 0x12, 0x13]
  | .txPack => [0x00, 0x20, 0x22]
  | .txOpen => [0x00, 0x22]
  | .txSetRate => [0x00, 0x22]
  | .txClose => [0x00, 0x22]
  | .xfFrame => [0x00, 0xE1, 0x22]
  | .xfCurrent => [0x00, 0xE1, 0x22]
  | .xfW2s => [0x00, 0xE0]
  | .txSetMaxdg => [0x00, 0xE0]
  | .rdReg => [0x00, 0xE0]
  | .nop => [0x00]
  | .xfI2w => [0x00]
  | .xfW2i => [0x00]
  | .xfExp => [0x00]
  | .xfNar => [0x00]
  | .xfWcol => [0x00]
  | .seqLoad => [0x00]
  | .seqPlay _ => [0x00]
  | .seqPause => [0x00]
  | .seqStop => [0x00]
  | .seqUpdate _ => [0x00]
  | .seqNext => [0x00]
  | .seqPrev => [0x00]
  | .seqSetFps => [0x00]
  | .seqSetSpeed => [0x00]
  | .seqSetLoop => [0x00]
  | .seqSnapshot => [0x00]

/-- How many of Q0, Q1, Q2 the instruction's *Writes* names, from Q0 on. No rule names Q3. -/
def namedQ (i : Instr) : Nat :=
  match i with
  | .ildaFmt0 _ _ => 0
  | .ildaFmt1 _ _ => 0
  | .ildaFmt2 _ _ => 0
  | .ildaFmt4 _ _ => 0
  | .ildaFmt5 _ _ => 0
  | .iwpOff => 0
  | .iwpPeriod _ => 0
  | .iwpPt8 _ _ _ _ _ => 0
  | .iwpPt16 _ _ _ _ _ => 0
  | .nop => 0
  | .txSetMaxdg => 0
  | .decodeIlda => 2
  | .parseIwp _ => 2
  | .xfI2w => 2
  | .xfW2i => 2
  | .xfW2s => 2
  | .xfCurrent => 2
  | .seqUpdate _ => 2
  | .seqSnapshot => 3
  | .xfExp => 1
  | .xfNar => 1
  | .xfWcol => 1
  | .xfFrame => 1
  | .txOpen => 1
  | .txSetRate => 1
  | .txPack => 1
  | .txClose => 1
  | .seqLoad => 1
  | .seqPlay _ => 1
  | .seqPause => 1
  | .seqStop => 1
  | .seqNext => 1
  | .seqPrev => 1
  | .seqSetFps => 1
  | .seqSetSpeed => 1
  | .seqSetLoop => 1
  | .rdReg => 1

/-! ### The host's duties -/

/-- The three issuing contexts (20_memory.md rule R77, 60_exceptions.md rule R283). They have no identifiers in the
block. -/
inductive Agent where
  | mainLoop
  | receive
  | transmit
deriving DecidableEq, Repr

/-- The commands a context may issue (rules R77, R242, R303). The transform commands, SEQ_SNAPSHOT, RD_REG and NOP are
anyone's; the instructions of the two streams are nobody's: they run inside DECODE_ILDA and PARSE_IWP. -/
def mayIssue (a : Agent) (i : Instr) : Bool :=
  match i with
  | .ildaFmt0 _ _ => false
  | .ildaFmt1 _ _ => false
  | .ildaFmt2 _ _ => false
  | .ildaFmt4 _ _ => false
  | .ildaFmt5 _ _ => false
  | .iwpOff => false
  | .iwpPeriod _ => false
  | .iwpPt8 _ _ _ _ _ => false
  | .iwpPt16 _ _ _ _ _ => false
  | .nop => true
  | .xfI2w => true
  | .xfW2i => true
  | .xfW2s => true
  | .xfExp => true
  | .xfNar => true
  | .xfWcol => true
  | .seqSnapshot => true
  | .rdReg => true
  | .parseIwp _ => decide (a = .receive)
  | .xfFrame => decide (a = .transmit)
  | .xfCurrent => decide (a = .transmit)
  | .txOpen => decide (a = .transmit)
  | .txSetRate => decide (a = .transmit)
  | .txPack => decide (a = .transmit)
  | .txClose => decide (a = .transmit)
  | .txSetMaxdg => decide (a = .transmit)
  | .decodeIlda => decide (a = .mainLoop)
  | .seqLoad => decide (a = .mainLoop)
  | .seqPlay _ => decide (a = .mainLoop)
  | .seqPause => decide (a = .mainLoop)
  | .seqStop => decide (a = .mainLoop)
  | .seqUpdate _ => decide (a = .mainLoop)
  | .seqNext => decide (a = .mainLoop)
  | .seqPrev => decide (a = .mainLoop)
  | .seqSetFps => decide (a = .mainLoop)
  | .seqSetSpeed => decide (a = .mainLoop)
  | .seqSetLoop => decide (a = .mainLoop)

/-- A host step that the host may make at all: a buffer write fits its buffer (rules R61, R64, R65). -/
def stepFits (c : Config) (h : HostStep) : Bool :=
  match h with
  | .issue _ _ => true
  | .writeArg _ _ => true
  | .writeIbuf bytes => c.ibufSize.admits bytes.length
  | .writeRbuf bytes => c.rbufSize.admits bytes.length
  | .writePin pts => c.pinSize.admits pts.length
  | .read _ => true

/-- The NOW values of a host program, in order. -/
def nows (p : List HostStep) : List Time :=
  p.filterMap fun h =>
    match h with
    | .issue _ now => some now
    | .writeArg _ _ => none
    | .writeIbuf _ => none
    | .writeRbuf _ => none
    | .writePin _ => none
    | .read _ => none

/-- NOW never decreases (rule R305). -/
def NowOrdered (p : List HostStep) : Prop := List.Pairwise (fun a b => a.toNat ≤ b.toNat) (nows p)

end Sys2Proof.Safety
end

