-- ==== Sys2Proof/Certificates/Slice0/Obligations.lean ====
section
/-!
DEFINITION. The statements for the provers, one `def Obligations.<Name> : Prop` each; OBLIGATIONS.json lists them. A
statement of a command's result is an equation for `exec`, so it says at once that the command completes, what it
writes, and that everything else keeps its value.
-/

open Sys2Proof Sys2Proof.Machine Sys2Proof.Safety

/-! ### Encodings -/

/-- 30_encoding.md rules R85 to R110: decoding the encoding of a well-formed instruction gives it back. -/
def Obligations.DecodeEncodeRoundTrip : Prop :=
  ∀ i : Instr, i.wellFormed = true → decode (encode i) = .ok i

/-- Rules R90, R124: whatever bytes are decoded, the instruction is well-formed; in particular a section never holds
more records than its count. -/
def Obligations.DecodedInstructionsAreWellFormed : Prop :=
  ∀ (u : CodeUnit) (i : Instr), decode u = .ok i → i.wellFormed = true

/-- Words written out from rules R91, R93, R102 to R104 and R110. -/
def Obligations.SpecWordsDecode : Prop :=
  decodeCmd [0x01, 0x00, 0x00, 0x03, 0xE8] = .ok (.period 1000) ∧
  decodeCmd [0x02, 0x00, 0x10, 0x00, 0x20, 0xFF, 0x80, 0x00] = .ok (.pt8 16 32 255 128 0) ∧
  decodeCmd [0x03, 0x80, 0x00, 0x80, 0x00, 0xFF, 0xFF, 0x00, 0x00, 0x00, 0x00] = .ok (.pt16 32768 32768 65535 0 0) ∧
  readIndexed3 [0xFF, 0xFF, 0x00, 0x01, 0x80, 0x00, 0x40, 0x03] = ⟨0xFFFF, 1, 0x8000, 0x40, 3⟩ ∧
  readRgb [0x10, 0x20, 0x30] = ⟨0x10, 0x20, 0x30⟩ ∧
  decodeHost 0x32 0 = .ok .txPack ∧ decodeHost 0x41 5000 = .ok (.seqPlay 5000)

/-- Rule R110: a decoded host command re-encodes to its own opcode byte. -/
def Obligations.HostOpcodesReencode : Prop :=
  ∀ (op : Byte) (now : Time) (i : Instr), decodeHost op now = .ok i →
    (encode i).format = .hostCmd ∧ (encode i).bytes = [op]

/-- Rule R88: two byte strings that differ only in the reserved bytes 4, 5, 6 and 31 of the header decode alike. -/
def Obligations.ReservedHeaderBytesIgnored : Prop :=
  ∀ bs bs' : List Byte, bs.length = bs'.length →
    (∀ a, a ≠ 4 → a ≠ 5 → a ≠ 6 → a ≠ 31 → bs[a]? = bs'[a]?) → decodeSec bs = decodeSec bs'

/-- Rules R101 to R106: a decoded IWP command is exactly the bytes its encoding has, at the head of the input. -/
def Obligations.DecodedCommandsReencode : Prop :=
  ∀ (bs : List Byte) (c : RawCmd), decodeCmd bs = .ok c → ∃ rest, bs = encodeCmd c ++ rest

/-! ### The step -/

/-- 45_host_misc.md rule R264: issuing an opcode that decodes runs that instruction, with the issue taken from the
port (the port is the model's own, assumption log 2). -/
def Obligations.StepRunsIssuedCommand : Prop :=
  ∀ (s : State) (op : Byte) (now : Time) (rest : List HostStep) (i : Instr),
    s.port = .issue op now :: rest → decode ⟨.hostCmd, [op], now⟩ = .ok i →
    step s = exec i { s with port := rest }

/-- Rules R112, R263: issuing an unassigned opcode writes STATUS <- 0xFF and nothing else. -/
def Obligations.UnassignedOpcodeIsRefused : Prop :=
  ∀ (s : State) (op : Byte) (now : Time),
    ((0x02 ≤ op.toNat ∧ op.toNat ≤ 0x0F) ∨ (0x18 ≤ op.toNat ∧ op.toNat ≤ 0x1F) ∨ (0x21 ≤ op.toNat ∧ op.toNat ≤ 0x2F) ∨
      (0x35 ≤ op.toNat ∧ op.toNat ≤ 0x3F) ∨ (0x4B ≤ op.toNat ∧ op.toNat ≤ 0x4F) ∨ 0x51 ≤ op.toNat) →
    issue op now s = .next { s with res := { s.res with status := 0xFF } }

/-- 45_host_misc.md rule R264 and 20_memory.md rule R71: a step issues the opcode at the port, or makes one of the four
host writes, each of which fits its buffer, or a host read, which changes nothing but the host's answer (what it answers:
`HostReadsAnswerTheState`); and with nothing at the port the block waits (70_reset_and_hazards.md rule R295). The port
and the answer are the model's own (assumption log 2). -/
def Obligations.HostStepsTakeEffect : Prop :=
  ∀ (s : State) (rest : List HostStep),
    (∀ op now, s.port = .issue op now :: rest → step s = issue op now { s with port := rest }) ∧
    (∀ v, s.port = .writeArg 0 v :: rest → step s = .next { s with port := rest, arg := { s.arg with arg0 := v } }) ∧
    (∀ v, s.port = .writeArg 1 v :: rest → step s = .next { s with port := rest, arg := { s.arg with arg1 := v } }) ∧
    (∀ v, s.port = .writeArg 2 v :: rest → step s = .next { s with port := rest, arg := { s.arg with arg2 := v } }) ∧
    (∀ v, s.port = .writeArg 3 v :: rest → step s = .next { s with port := rest, arg := { s.arg with arg3 := v } }) ∧
    (∀ bs, s.port = .writeIbuf bs :: rest → s.cfg.ibufSize.admits bs.length = true →
      step s = .next { s with port := rest, dec := { s.dec with ibuf := bs } }) ∧
    (∀ bs, s.port = .writeRbuf bs :: rest → s.cfg.rbufSize.admits bs.length = true →
      step s = .next { s with port := rest, prs := { s.prs with rbuf := bs } }) ∧
    (∀ pts, s.port = .writePin pts :: rest → s.cfg.pinSize.admits pts.length = true →
      step s = .next { s with port := rest, enc := { s.enc with pin := pts } }) ∧
    (∀ p, s.port = .read p :: rest → ∃ v, step s = .next { s with port := rest, answer := v }) ∧
    (s.port = [] → step s = .next s)

/-- 20_memory.md rules R60, R63, R71, R72, R76: a host read is one atomic step that answers what the state holds at that
step and has no side effect. A register answers what RD_REG of its number gives (10_state.md rule R47), for STATUS by
the model's choice of rule R261 over rule R72's word idempotent (assumption log 15); RD_REG takes its number from ARG0's
low byte by the model's reading (assumption log 17), and ARG0 is stated apart, since the number stands there. That the answer stands in State, and that a place which names nothing
answers none, are the model's choices (assumption log 2). -/
def Obligations.HostReadsAnswerTheState : Prop :=
  ∀ (s : State) (p : ReadPlace) (rest : List HostStep), s.port = .read p :: rest → ∃ v : Option HostValue,
    step s = .next { s with port := rest, answer := v } ∧
    (p = .reg 0x08 → v = some (.word s.arg.arg0)) ∧
    (∀ (a : Word) (t : State), p = .reg (a.extractLsb' 0 8) → p ≠ .reg 0x08 →
      exec .rdReg { s with arg := { s.arg with arg0 := a } } = .next t →
      (t.res.status = 0x00 → v = some (.word t.res.q0)) ∧ (t.res.status ≠ 0x00 → v = none)) ∧
    (p = .ibuf → v = some (.bytes s.dec.ibuf)) ∧ (p = .rbuf → v = some (.bytes s.prs.rbuf)) ∧
    (p = .pal → v = some (.palette s.dec.pal)) ∧ (∀ i, p = .palEntry i → v = some (.colour s.dec.pal[i.toNat])) ∧
    (p = .fstore → v = some (.frames s.dec.fstore)) ∧ (∀ i, p = .frame i → v = (s.dec.fstore[i]?).map .frame) ∧
    (p = .flist → v = some (.frames s.seq.flist)) ∧ (p = .pktPoints → v = some (.wirePoints s.prs.pkt.points)) ∧
    (p = .pktCmds → v = some (.cmds s.prs.pkt.cmds)) ∧ (p = .pin → v = some (.wirePoints s.enc.pin)) ∧
    (p = .txq → v = some (.datagrams s.enc.txq))

/-- Rule R266: no command stops the block, in any state. -/
def Obligations.NoCommandStopsTheBlock : Prop :=
  ∀ (i : Instr) (s : State), ∃ t, exec i s = .next t

/-- The one stop of the model is a host write over a buffer's capacity, which rule R61 forbids the host (assumption
log 4). A step is never refused. -/
def Obligations.StepStopsOnlyOnOversizedWrite : Prop :=
  ∀ s : State,
    (∀ r, step s ≠ .refused r) ∧
    (∀ f, step s = .fault f → ∃ h rest, s.port = h :: rest ∧ stepFits s.cfg h = false) ∧
    (∀ h rest, s.port = h :: rest → stepFits s.cfg h = false → ∃ f, step s = .fault f)

/-! ### Reset and invariants -/

/-- 70_reset_and_hazards.md rule R296: the reset table for every configuration. The last two clauses are the model's own
besides: that State holds the configuration (`cfg`, assumption log 1, DESIGN CHOICE), and that the machine starts with
the defaults of 00_scope.md rule R9 (assumption log 13, DEDUCED). -/
def Obligations.ResetTable : Prop :=
  (∀ c : Config,
    (State.resetWith c).arg = ⟨0, 0, 0, 0⟩ ∧ (State.resetWith c).res = ⟨0, 0, 0, 0, 0x00⟩ ∧
    (State.resetWith c).dec.ibuf = [] ∧ (State.resetWith c).dec.off = 0 ∧ (State.resetWith c).dec.nframes = 0 ∧
    (State.resetWith c).dec.stop = 0x00 ∧ (∀ i : Fin 256, (State.resetWith c).dec.pal[i] = ⟨255, 255, 255⟩) ∧
    (State.resetWith c).dec.fstore = [] ∧
    (State.resetWith c).prs.rbuf = [] ∧ (State.resetWith c).prs.pkt = ⟨[], [], none, 0, 0, 0, 0⟩ ∧
    (State.resetWith c).prs.received = 0 ∧ (State.resetWith c).prs.valid = 0 ∧ (State.resetWith c).prs.invalid = 0 ∧
    (State.resetWith c).enc = ⟨[], 1023, 0, 1, false, 0, []⟩ ∧ (State.resetWith c).enc.period = periodUs 0 ∧
    (State.resetWith c).seq = ⟨.stopped, 0, c.resetLoop, c.resetFps, c.resetSpeed, 0, [], 0⟩) ∧
  State.reset.seq = ⟨.stopped, 0, true, 30000, 1000, 0, [], 0⟩ ∧
  State.reset.cfg = ⟨none, some 65535, none, none, none, none, true, 30000, 1000⟩

/-- Rules R51, R297: the reset state of every legal configuration meets the invariant. -/
def Obligations.ResetMeetsInvariant : Prop :=
  ∀ c : Config, c.legal = true → Inv (State.resetWith c) ∧ PeriodFirst (State.resetWith c).enc

/-- 10_state.md rule R51, with rules R40 and R47: every step keeps the invariant, from every state that meets it.
Its counts are read through `toReg32` (assumption log 3). -/
def Obligations.StepKeepsInvariant : Prop :=
  ∀ s t : State, Inv s → step s = .next t → Inv t

/-- 43_iwp_encode.md rule R203: every step keeps "the period goes out before points". -/
def Obligations.StepKeepsPeriodFirst : Prop :=
  ∀ s t : State, 11 ≤ s.enc.maxdg.toNat → PeriodFirst s.enc → step s = .next t → PeriodFirst t.enc

/-- Rules R38, R66: a command only appends non-empty datagrams to TXQ, and TX_NDGRAM counts them modulo 2^32. -/
def Obligations.TransmitStreamOnlyGrows : Prop :=
  ∀ (i : Instr) (s t : State), exec i s = .next t →
    ∃ ds : List (List Byte), t.enc.txq = s.enc.txq ++ ds ∧ (∀ d ∈ ds, d ≠ []) ∧
      t.enc.ndgram = s.enc.ndgram + BitVec.ofNat 32 ds.length

/-- Rules R22, R61, R64: no command writes an ARG register, IBUF or RBUF; nor the model's own configuration, port and
answer (assumption log 1 and 2). -/
def Obligations.CommandsLeaveHostInputsAlone : Prop :=
  ∀ (i : Instr) (s t : State), exec i s = .next t →
    t.arg = s.arg ∧ t.dec.ibuf = s.dec.ibuf ∧ t.prs.rbuf = s.prs.rbuf ∧ t.cfg = s.cfg ∧ t.port = s.port ∧
    t.answer = s.answer

/-- 20_memory.md rule R77 and 70_reset_and_hazards.md rule R303: a command that only one context may issue writes no unit
of another context, and a command that every context may issue writes no unit at all. Which context may issue which
command is the table `mayIssue`, the model's reading of those rules (assumption log 14, DEDUCED): it speaks of commands
alone, not of who writes RBUF and PIN, and counts TX_SET_MAXDG as one of the TX_* commands. -/
def Obligations.ContextsOwnTheirState : Prop :=
  ∀ (i : Instr) (s t : State), exec i s = .next t →
    (mayIssue .mainLoop i = true → t.prs = s.prs ∧ t.enc = s.enc) ∧
    (mayIssue .receive i = true → t.dec = s.dec ∧ t.enc = s.enc ∧ t.seq = s.seq) ∧
    (mayIssue .transmit i = true → t.dec = s.dec ∧ t.prs = s.prs ∧ t.seq = s.seq)

/-- 60_exceptions.md rule R270: every host command writes STATUS, with a code its row of the table allows. -/
def Obligations.CommandsEndWithTheirCodes : Prop :=
  ∀ (i : Instr) (s t : State), isHostCommand i = true → exec i s = .next t → t.res.status ∈ endCodes i

/-- Rule R265: a Q register the command does not name keeps its value, and no rule names Q3. -/
def Obligations.UnnamedResultsKeepTheirValue : Prop :=
  ∀ (i : Instr) (s t : State), exec i s = .next t →
    (namedQ i = 0 → t.res.q0 = s.res.q0) ∧ (namedQ i ≤ 1 → t.res.q1 = s.res.q1) ∧
    (namedQ i ≤ 2 → t.res.q2 = s.res.q2) ∧ t.res.q3 = s.res.q3

/-! ### The ILDA stream -/

/-- 40_ilda_decoder.md rules R124, R126, R127, R130 to R135: with room in the frame store, a point section appends one
frame of its decoded points and the cursor passes it (the section as an instruction: assumption log 5). -/
def Obligations.PointSectionsStoreOneFrame : Prop :=
  ∀ (s : State) (h : Header),
    (∀ recs : List Indexed3, s.cfg.maxFrames.admits (s.dec.fstore.length + 1) = true →
      s.cfg.maxPoints.admits ((s.dec.fstore.map fun f => f.points.length).sum + recs.length) = true →
      exec (.ildaFmt0 h recs) s = .next { s with dec := { s.dec with
        fstore := s.dec.fstore ++ [⟨h.fmt, h, recs.map fun p => ⟨p.x, p.y, p.z, p.status,
          (s.dec.pal[p.ci.toNat]).r, (s.dec.pal[p.ci.toNat]).g, (s.dec.pal[p.ci.toNat]).b⟩⟩]
        off := s.dec.off + 32 + recs.length * 8
        stop := if recs.length < h.count.toNat then 0x04 else s.dec.stop } }) ∧
    (∀ recs : List Indexed2, s.cfg.maxFrames.admits (s.dec.fstore.length + 1) = true →
      s.cfg.maxPoints.admits ((s.dec.fstore.map fun f => f.points.length).sum + recs.length) = true →
      exec (.ildaFmt1 h recs) s = .next { s with dec := { s.dec with
        fstore := s.dec.fstore ++ [⟨h.fmt, h, recs.map fun p => ⟨p.x, p.y, 0, p.status,
          (s.dec.pal[p.ci.toNat]).r, (s.dec.pal[p.ci.toNat]).g, (s.dec.pal[p.ci.toNat]).b⟩⟩]
        off := s.dec.off + 32 + recs.length * 6
        stop := if recs.length < h.count.toNat then 0x04 else s.dec.stop } }) ∧
    (∀ recs : List True3, s.cfg.maxFrames.admits (s.dec.fstore.length + 1) = true →
      s.cfg.maxPoints.admits ((s.dec.fstore.map fun f => f.points.length).sum + recs.length) = true →
      exec (.ildaFmt4 h recs) s = .next { s with dec := { s.dec with
        fstore := s.dec.fstore ++ [⟨h.fmt, h, recs.map fun p => ⟨p.x, p.y, p.z, p.status, p.r, p.g, p.b⟩⟩]
        off := s.dec.off + 32 + recs.length * 10
        stop := if recs.length < h.count.toNat then 0x04 else s.dec.stop } }) ∧
    (∀ recs : List True2, s.cfg.maxFrames.admits (s.dec.fstore.length + 1) = true →
      s.cfg.maxPoints.admits ((s.dec.fstore.map fun f => f.points.length).sum + recs.length) = true →
      exec (.ildaFmt5 h recs) s = .next { s with dec := { s.dec with
        fstore := s.dec.fstore ++ [⟨h.fmt, h, recs.map fun p => ⟨p.x, p.y, 0, p.status, p.r, p.g, p.b⟩⟩]
        off := s.dec.off + 32 + recs.length * 8
        stop := if recs.length < h.count.toNat then 0x04 else s.dec.stop } })

/-- Rule R129: with no room for the frame or for its points, nothing of the section is stored and the cursor stays at
its header (the section as an instruction: assumption log 5). -/
def Obligations.SectionOverCapacityStoresNothing : Prop :=
  ∀ (s : State) (x : Sec), (∀ h recs, x ≠ .fmt2 h recs) →
    s.cfg.maxFrames.admits (s.dec.fstore.length + 1) = false ∨
      s.cfg.maxPoints.admits ((s.dec.fstore.map fun f => f.points.length).sum + secRecords x) = false →
    exec x.toInstr s = .next { s with dec := { s.dec with stop := 0x05 } }

/-- Rule R133: a palette section replaces the entries its records number, below 256, and appends no frame (the
section as an instruction: assumption log 5). -/
def Obligations.PaletteSectionReplacesEntries : Prop :=
  ∀ (s : State) (h : Header) (recs : List Rgb), ∃ pal : Vector Rgb 256,
    (∀ i : Fin 256, pal[i] = recs.getD i.val s.dec.pal[i]) ∧
    exec (.ildaFmt2 h recs) s = .next { s with dec := { s.dec with
      pal := pal
      off := s.dec.off + 32 + recs.length * 3
      stop := if recs.length < h.count.toNat then 0x04 else s.dec.stop } }

/-- Rule R125: DECODE_ILDA completes on every IBUF, with a stop code, a cursor inside the buffer, and its results;
frames and palette apart, nothing else changes. Counts are written through `toReg32`: the number where it fits 32 bits,
a free value elsewhere (assumption log 3). -/
def Obligations.DecodeIldaCompletes : Prop :=
  ∀ s : State, ∃ (off : Nat) (stop : Byte) (pal : Vector Rgb 256) (frames : List Frame),
    exec .decodeIlda s = .next { s with
      dec := { s.dec with off := off, stop := stop, pal := pal, fstore := frames,
                          nframes := toReg32 .decNframes frames.length }
      res := { s.res with q0 := toReg32 .q0 frames.length, q1 := toReg32 .q1 off, status := stop } } ∧
    (1 ≤ stop.toNat ∧ stop.toNat ≤ 5) ∧ off ≤ s.dec.ibuf.length ∧ (∀ f ∈ frames, FrameOk f)

/-- Rules R120, R121, R125, R128, R139: an image of whole sections that fit the frame store, followed by bytes that are
no section. The decode is the run of the sections' instructions from a fresh session, ended by what the tail is. That sections are instructions
of their own is the model's reading (assumption log 5); counts are written through `toReg32` (assumption log 3). -/
def Obligations.DecodeRunsWholeSections : Prop :=
  ∀ (s : State) (secs : List Sec) (tail : List Byte) (e : SecReject),
    SectionsFit s.cfg secs → (∀ x ∈ secs, SecComplete x) →
    decodeSec tail = .error e → s.dec.ibuf = secs.flatMap encodeSec ++ tail →
    ∃ u : State,
      execAll (secs.map Sec.toInstr) { s with dec := { s.dec with
        off := 0, stop := 0x00, pal := Vector.replicate 256 ⟨255, 255, 255⟩, fstore := [] } } = .next u ∧
      u.dec.off = (secs.flatMap encodeSec).length ∧
      exec .decodeIlda s = .next { u with
        dec := { u.dec with stop := Status.ofSecReject e, nframes := toReg32 .decNframes u.dec.fstore.length }
        res := { s.res with q0 := toReg32 .q0 u.dec.fstore.length, q1 := toReg32 .q1 u.dec.off,
                            status := Status.ofSecReject e } }

/-- Rules R125, R129: whole sections that fit the frame store, then a point section (whole or cut short) that does not fit
beside them. The decode is the run of the sections that fit, ended with DEC_CAPACITY: earlier frames and the palette are
kept, nothing of the refused section is stored, and DEC_OFF is its header's offset. That sections are instructions of
their own is the model's reading (assumption log 5); counts are written through `toReg32` (assumption log 3). -/
def Obligations.DecodeStopsAtFullStore : Prop :=
  ∀ (s : State) (secs : List Sec) (x : Sec) (tail : List Byte),
    SectionsFit s.cfg secs → (∀ y ∈ secs, SecComplete y) → decodeSec tail = .ok x → ¬ SectionsFit s.cfg (secs ++ [x]) →
    s.dec.ibuf = secs.flatMap encodeSec ++ tail →
    ∃ u : State,
      execAll (secs.map Sec.toInstr) { s with dec := { s.dec with
        off := 0, stop := 0x00, pal := Vector.replicate 256 ⟨255, 255, 255⟩, fstore := [] } } = .next u ∧
      u.dec.off = (secs.flatMap encodeSec).length ∧
      exec .decodeIlda s = .next { u with
        dec := { u.dec with stop := 0x05, nframes := toReg32 .decNframes u.dec.fstore.length }
        res := { s.res with q0 := toReg32 .q0 u.dec.fstore.length, q1 := toReg32 .q1 u.dec.off, status := 0x05 } }

/-- Rules R124, R126, R127: a last section cut short after its complete records, which fits the frame store with the
sections before it, is used and ends the decode with DEC_TRUNCATED; fewer bytes than one record may follow. It rests on the model's reading of sections as instructions
(assumption log 5) and on `toReg32` (assumption log 3). -/
def Obligations.DecodeUsesTruncatedLastSection : Prop :=
  ∀ (s : State) (secs : List Sec) (x : Sec) (tail : List Byte) (rs : Nat),
    SectionsFit s.cfg (secs ++ [x]) → (∀ y ∈ secs, SecComplete y) →
    x.toInstr.wellFormed = true → secRecords x < (secHeader x).count.toNat →
    recsize (secHeader x).fmt = some rs → tail.length < rs →
    s.dec.ibuf = secs.flatMap encodeSec ++ encodeSec x ++ tail →
    ∃ u : State,
      execAll ((secs ++ [x]).map Sec.toInstr) { s with dec := { s.dec with
        off := 0, stop := 0x00, pal := Vector.replicate 256 ⟨255, 255, 255⟩, fstore := [] } } = .next u ∧
      u.dec.stop = 0x04 ∧ u.dec.off = ((secs ++ [x]).flatMap encodeSec).length ∧
      exec .decodeIlda s = .next { u with
        dec := { u.dec with nframes := toReg32 .decNframes u.dec.fstore.length }
        res := { s.res with q0 := toReg32 .q0 u.dec.fstore.length, q1 := toReg32 .q1 u.dec.off, status := 0x04 } }

/-- Rules R121, R124, R126, R128, R129: what stands at the cursor, for each of the five codes a decode ends with. For
DEC_TRUNCATED, `p` is the last section's header and `k` its complete records; for DEC_CAPACITY, the cursor is at the
header of a point section whose frame does not fit the store. -/
def Obligations.DecodeStopsForItsReason : Prop :=
  ∀ s t : State, exec .decodeIlda s = .next t →
    (t.res.status = 0x01 → s.dec.ibuf.length - t.dec.off < 32) ∧
    (t.res.status = 0x02 → 32 ≤ s.dec.ibuf.length - t.dec.off ∧
      (s.dec.ibuf.drop t.dec.off).take 4 ≠ [0x49, 0x4C, 0x44, 0x41]) ∧
    (t.res.status = 0x03 → 32 ≤ s.dec.ibuf.length - t.dec.off ∧
      (s.dec.ibuf.drop t.dec.off).take 4 = [0x49, 0x4C, 0x44, 0x41] ∧
      ∀ c : Byte, s.dec.ibuf[t.dec.off + 7]? = some c → c ≠ 0 ∧ c ≠ 1 ∧ c ≠ 2 ∧ c ≠ 4 ∧ c ≠ 5) ∧
    (t.res.status = 0x04 → ∃ (p : Nat) (c : Byte) (rs k : Nat), 32 ≤ s.dec.ibuf.length - p ∧
      (s.dec.ibuf.drop p).take 4 = [0x49, 0x4C, 0x44, 0x41] ∧ s.dec.ibuf[p + 7]? = some c ∧ recsize c = some rs ∧
      k < (be16At s.dec.ibuf (p + 24)).toNat ∧ t.dec.off = p + 32 + k * rs ∧ t.dec.off ≤ s.dec.ibuf.length ∧
      s.dec.ibuf.length - t.dec.off < rs) ∧
    (t.res.status = 0x05 → 32 ≤ s.dec.ibuf.length - t.dec.off ∧
      (s.dec.ibuf.drop t.dec.off).take 4 = [0x49, 0x4C, 0x44, 0x41] ∧
      ∃ (c : Byte) (rs : Nat), s.dec.ibuf[t.dec.off + 7]? = some c ∧ c ≠ 2 ∧ recsize c = some rs ∧
        (s.cfg.maxFrames.admits (t.dec.fstore.length + 1) = false ∨
          s.cfg.maxPoints.admits ((t.dec.fstore.map fun f => f.points.length).sum +
            min (be16At s.dec.ibuf (t.dec.off + 24)).toNat ((s.dec.ibuf.length - t.dec.off - 32) / rs)) = false))

/-- Rule R72: a second DECODE_ILDA on an unchanged IBUF changes nothing. -/
def Obligations.DecodeIldaIsIdempotent : Prop :=
  ∀ s t : State, exec .decodeIlda s = .next t → exec .decodeIlda t = .next t

/-! ### The IWP stream -/

/-- 42_iwp_decode.md rules R180 to R183: the four command types inside a parse (the command as an
instruction: assumption log 5). -/
def Obligations.StreamCommandsExtendThePacket : Prop :=
  ∀ s : State,
    exec .iwpOff s = .next { s with prs := { s.prs with pkt := { s.prs.pkt with
      cmds := s.prs.pkt.cmds ++ [.off], endOff := s.prs.pkt.endOff + 1 } } } ∧
    (∀ v, exec (.iwpPeriod v) s = .next { s with prs := { s.prs with pkt := { s.prs.pkt with
      cmds := s.prs.pkt.cmds ++ [.period v], period := some v, endOff := s.prs.pkt.endOff + 5 } } }) ∧
    (∀ x y r g b, exec (.iwpPt8 x y r g b) s = .next { s with prs := { s.prs with pkt := { s.prs.pkt with
      cmds := s.prs.pkt.cmds ++ [.pt8 x y r g b], endOff := s.prs.pkt.endOff + 8
      points := s.prs.pkt.points ++
        [⟨x, y, BitVec.ofNat 16 r.toNat, BitVec.ofNat 16 g.toNat, BitVec.ofNat 16 b.toNat, false⟩] } } }) ∧
    (∀ x y r g b, exec (.iwpPt16 x y r g b) s = .next { s with prs := { s.prs with pkt := { s.prs.pkt with
      cmds := s.prs.pkt.cmds ++ [.pt16 x y r g b], endOff := s.prs.pkt.endOff + 11
      points := s.prs.pkt.points ++ [⟨x, y, r, g, b, decide (r = 0 ∧ g = 0 ∧ b = 0)⟩] } } })

/-- Rules R175, R178 to R185: a non-empty datagram that is the encoding of commands followed by bytes that are no
command. The packet is the commands' own, which is also the run of their instructions from an empty packet (the model's
reading, assumption log 5). Counts are written through `toReg32` (assumption log 3). -/
def Obligations.ParseReadsTheCommandStream : Prop :=
  ∀ (s : State) (now : Time) (cmds : List RawCmd) (tail : List Byte) (e : CmdReject),
    s.prs.rbuf ≠ [] → s.prs.rbuf = cmds.flatMap encodeCmd ++ tail → decodeCmd tail = .error e →
    let pkt : Packet := { points := cmds.filterMap pointOfCmd, cmds := cmds, period := lastPeriod none cmds, time := now,
                          len := s.prs.rbuf.length, endOff := (cmds.flatMap encodeCmd).length,
                          stop := Status.ofCmdReject e }
    exec (.parseIwp now) s = .next { s with
      prs := { s.prs with received := s.prs.received + 1, valid := s.prs.valid + 1, pkt := pkt }
      res := { s.res with q0 := toReg32 .q0 pkt.points.length, q1 := toReg32 .q1 cmds.length,
                          status := Status.ofCmdReject e } } ∧
    execAll (cmds.map RawCmd.toInstr) { s with prs := { s.prs with
      pkt := ⟨[], [], none, now, s.prs.rbuf.length, 0, 0x00⟩ } } =
        .next { s with prs := { s.prs with pkt := { pkt with stop := 0x00 } } }

/-- Rule R176: an empty datagram is counted and rejected, and PKT, Q0 and Q1 keep their values. -/
def Obligations.ParseRejectsEmptyDatagram : Prop :=
  ∀ (s : State) (now : Time), s.prs.rbuf = [] →
    exec (.parseIwp now) s = .next { s with
      prs := { s.prs with received := s.prs.received + 1, invalid := s.prs.invalid + 1 }
      res := { s.res with status := 0x11 } }

/-- Rules R178, R179, R185, R186: whatever a non-empty datagram holds, the packet's commands are exactly its bytes up to
PKT.end, and PKT.end is the end of the datagram exactly when the parse ends with PARSE_END. Counts are written through
`toReg32` (assumption log 3). -/
def Obligations.ParseAccountsForTheDatagram : Prop :=
  ∀ (s : State) (now : Time), s.prs.rbuf ≠ [] → ∃ pkt : Packet,
    exec (.parseIwp now) s = .next { s with
      prs := { s.prs with received := s.prs.received + 1, valid := s.prs.valid + 1, pkt := pkt }
      res := { s.res with q0 := toReg32 .q0 pkt.points.length, q1 := toReg32 .q1 pkt.cmds.length,
                          status := pkt.stop } } ∧
    pkt.cmds.flatMap encodeCmd = s.prs.rbuf.take pkt.endOff ∧ pkt.endOff ≤ s.prs.rbuf.length ∧
    pkt.len = s.prs.rbuf.length ∧ pkt.time = now ∧ pkt.points = pkt.cmds.filterMap pointOfCmd ∧
    pkt.period = lastPeriod none pkt.cmds ∧ (pkt.endOff = s.prs.rbuf.length ↔ pkt.stop = 0x10)

/-! ### The transformer -/

/-- 41_transform.md rule R150: XF_I2W's results, as the formulas of the rule. -/
def Obligations.XfI2wRecentresAndFlips : Prop :=
  ∀ s : State, ∃ wx wy : Word,
    exec .xfI2w s = .next { s with res := { s.res with q0 := wx, q1 := wy, status := 0x00 } } ∧
    (wx.toNat : Int) = ((s.arg.arg0.extractLsb' 0 16).toInt + 32768) % 65536 ∧
    (wy.toNat : Int) = (-(s.arg.arg1.extractLsb' 0 16).toInt + 32768) % 65536

/-- Rule R151: wx is x's pattern with bit 15 inverted, and wy is 0x8000 minus y's pattern. -/
def Obligations.XfI2wOnPatterns : Prop :=
  ∀ s : State,
    exec .xfI2w s = .next { s with res := { s.res with
      q0 := (s.arg.arg0.extractLsb' 0 16 ^^^ 0x8000#16).zeroExtend 32
      q1 := (0x8000#16 - s.arg.arg1.extractLsb' 0 16).zeroExtend 32
      status := 0x00 } }

/-- Rule R152: XF_W2I's results are the 16-bit patterns of wx - 32768 and sext_16((32768 - wy) mod 65536). -/
def Obligations.XfW2iIsTheInverse : Prop :=
  ∀ s : State, ∃ x y : Half,
    exec .xfW2i s = .next { s with res := { s.res with q0 := x.zeroExtend 32, q1 := y.zeroExtend 32, status := 0x00 } } ∧
    x.toInt = ((s.arg.arg0.extractLsb' 0 16).toNat : Int) - 32768 ∧
    (y.toNat : Int) = (32768 - ((s.arg.arg1.extractLsb' 0 16).toNat : Int)) % 65536

/-- Rule R153: feeding one command's results to the other gives the operands' patterns back, both ways. -/
def Obligations.CoordinatesRoundTrip : Prop :=
  ∀ s t u : State, s.arg.arg0.toNat < 65536 → s.arg.arg1.toNat < 65536 →
    u.arg.arg0 = t.res.q0 → u.arg.arg1 = t.res.q1 →
    (exec .xfI2w s = .next t →
      exec .xfW2i u = .next { u with res := { u.res with q0 := s.arg.arg0, q1 := s.arg.arg1, status := 0x00 } }) ∧
    (exec .xfW2i s = .next t →
      exec .xfI2w u = .next { u with res := { u.res with q0 := s.arg.arg0, q1 := s.arg.arg1, status := 0x00 } })

/-- Rules R154, R155: XF_W2S, and BAD_ARG with both results 0 for a zero dimension. -/
def Obligations.XfW2sScales : Prop :=
  ∀ s : State,
    ((s.arg.arg2.extractLsb' 0 16 = 0#16 ∨ s.arg.arg3.extractLsb' 0 16 = 0#16) →
      exec .xfW2s s = .next { s with res := { s.res with q0 := 0, q1 := 0, status := 0xE0 } }) ∧
    (s.arg.arg2.extractLsb' 0 16 ≠ 0#16 → s.arg.arg3.extractLsb' 0 16 ≠ 0#16 → ∃ px py : Word,
      exec .xfW2s s = .next { s with res := { s.res with q0 := px, q1 := py, status := 0x00 } } ∧
      px.toNat = (s.arg.arg0.extractLsb' 0 16).toNat * (s.arg.arg2.extractLsb' 0 16).toNat / 65536 ∧
      py.toNat = (s.arg.arg1.extractLsb' 0 16).toNat * (s.arg.arg3.extractLsb' 0 16).toNat / 65536 ∧
      px.toNat < (s.arg.arg2.extractLsb' 0 16).toNat ∧ py.toNat < (s.arg.arg3.extractLsb' 0 16).toNat)

/-- Rules R156, R158, R160: XF_EXP, XF_NAR and XF_WCOL. -/
def Obligations.ColourCommandsCompute : Prop :=
  ∀ s : State, ∃ e n w : Word,
    exec .xfExp s = .next { s with res := { s.res with q0 := e, status := 0x00 } } ∧
    e.toNat = s.arg.arg0.toNat % 256 * 257 ∧
    exec .xfNar s = .next { s with res := { s.res with q0 := n, status := 0x00 } } ∧
    n.toNat = (if 255 < s.arg.arg0.toNat % 65536 then s.arg.arg0.toNat % 65536 / 256 else s.arg.arg0.toNat % 65536) ∧
    exec .xfWcol s = .next { s with res := { s.res with q0 := w, status := 0x00 } } ∧
    w.toNat = (if s.arg.arg1.toNat % 2 = 1 then 0
      else if 255 < s.arg.arg0.toNat % 65536 then s.arg.arg0.toNat % 65536
      else s.arg.arg0.toNat % 65536 * 257)

/-- Rule R159: narrowing the result of XF_EXP gives the 8-bit value back. -/
def Obligations.NarrowUndoesExpand : Prop :=
  ∀ s t u : State, exec .xfExp s = .next t → u.arg.arg0 = t.res.q0 →
    exec .xfNar u = .next { u with res := { u.res with q0 := (s.arg.arg0.extractLsb' 0 8).zeroExtend 32, status := 0x00 } }

/-! ### Frames to wire points -/

/-- 43_iwp_encode.md rules R211, R212: XF_FRAME, with NO_FRAME tested before TX_CAPACITY. (Where the frame named is not
in the list although it is below SEQ_N, the state is unreachable: `NamedFramesExist`, assumption log 8.) The length is
written through `toReg32` (assumption log 3). -/
def Obligations.XfFrameLoadsPin : Prop :=
  ∀ s : State,
    (s.seq.n.toNat ≤ s.arg.arg0.toNat →
      exec .xfFrame s = .next { s with res := { s.res with q0 := 0, status := 0xE1 } }) ∧
    (∀ f : Frame, s.arg.arg0.toNat < s.seq.n.toNat → s.seq.flist[s.arg.arg0.toNat]? = some f →
      (s.cfg.pinSize.admits f.points.length = true →
        exec .xfFrame s = .next { s with
          enc := { s.enc with pin := f.points.map fun p =>
            ⟨p.x ^^^ 0x8000#16, 0x8000#16 - p.y, p.r.zeroExtend 16, p.g.zeroExtend 16, p.b.zeroExtend 16,
              p.status.getLsbD 6⟩ }
          res := { s.res with q0 := toReg32 .q0 f.points.length, status := 0x00 } }) ∧
      (s.cfg.pinSize.admits f.points.length = false →
        exec .xfFrame s = .next { s with res := { s.res with q0 := 0, status := 0x22 } }))

/-- Rules R211, R213, and 20_memory.md rule R78: XF_CURRENT; index and list are of one state. The
length is written through `toReg32` (assumption log 3). -/
def Obligations.XfCurrentLoadsPin : Prop :=
  ∀ s : State,
    (s.seq.n = 0 → exec .xfCurrent s = .next { s with res := { s.res with q0 := 0, q1 := 0, status := 0xE1 } }) ∧
    (∀ f : Frame, s.seq.n ≠ 0 → s.seq.flist[s.seq.index.toNat]? = some f →
      (s.cfg.pinSize.admits f.points.length = true →
        exec .xfCurrent s = .next { s with
          enc := { s.enc with pin := f.points.map fun p =>
            ⟨p.x ^^^ 0x8000#16, 0x8000#16 - p.y, p.r.zeroExtend 16, p.g.zeroExtend 16, p.b.zeroExtend 16,
              p.status.getLsbD 6⟩ }
          res := { s.res with q0 := s.seq.index, q1 := toReg32 .q1 f.points.length, status := 0x00 } }) ∧
      (s.cfg.pinSize.admits f.points.length = false →
        exec .xfCurrent s = .next { s with res := { s.res with q0 := s.seq.index, q1 := 0, status := 0x22 } }))

/-- Rules R40, R51, R212, R213: under the invariant the frame that XF_FRAME or XF_CURRENT names is in the list, so the
commands' results above cover every state a run reaches. -/
def Obligations.NamedFramesExist : Prop :=
  ∀ s : State, SequencerInv s.seq →
    (∀ i : Word, i.toNat < s.seq.n.toNat → ∃ f, s.seq.flist[i.toNat]? = some f) ∧
    (s.seq.n ≠ 0 → ∃ f, s.seq.flist[s.seq.index.toNat]? = some f)

/-! ### The session framer -/

/-- Rules R201, R202: TX_OPEN, and TX_CAPACITY with nothing changed when TXQ is full. -/
def Obligations.TxOpenSendsThePeriod : Prop :=
  ∀ s : State,
    (s.cfg.txqCap.admits (s.enc.txq.length + 1) = true →
      exec .txOpen s = .next { s with
        enc := { s.enc with scanHz := s.arg.arg0, period := periodUs s.arg.arg0, session := true,
                            txq := s.enc.txq ++ [[0x01] ++ put32 (periodUs s.arg.arg0)], ndgram := s.enc.ndgram + 1 }
        res := { s.res with q0 := periodUs s.arg.arg0, status := 0x00 } }) ∧
    (s.cfg.txqCap.admits (s.enc.txq.length + 1) = false →
      exec .txOpen s = .next { s with res := { s.res with status := 0x22 } })

/-- Rules R204, R205: TX_SET_RATE sends the period on every issue in a session, and outside one only stores it. -/
def Obligations.TxSetRateResendsThePeriod : Prop :=
  ∀ s : State,
    (s.enc.session = true → s.cfg.txqCap.admits (s.enc.txq.length + 1) = true →
      exec .txSetRate s = .next { s with
        enc := { s.enc with scanHz := s.arg.arg0, period := periodUs s.arg.arg0,
                            txq := s.enc.txq ++ [[0x01] ++ put32 (periodUs s.arg.arg0)], ndgram := s.enc.ndgram + 1 }
        res := { s.res with q0 := periodUs s.arg.arg0, status := 0x00 } }) ∧
    (s.enc.session = false →
      exec .txSetRate s = .next { s with
        enc := { s.enc with scanHz := s.arg.arg0, period := periodUs s.arg.arg0 }
        res := { s.res with q0 := periodUs s.arg.arg0, status := 0x00 } }) ∧
    (s.enc.session = true → s.cfg.txqCap.admits (s.enc.txq.length + 1) = false →
      exec .txSetRate s = .next { s with res := { s.res with status := 0x22 } })

/-- Rules R198, R199, R203, R210, R214: TX_PACK appends its chunks, all or none, and only in a session.
Their number is written through `toReg32` (assumption log 3). -/
def Obligations.TxPackAppendsItsChunks : Prop :=
  ∀ s : State,
    (s.enc.session = false → exec .txPack s = .next { s with res := { s.res with q0 := 0, status := 0x20 } }) ∧
    (s.enc.session = true →
      s.cfg.txqCap.admits
        (s.enc.txq.length + (chunk (s.enc.pin.map encodePoint) (s.enc.maxdg.toNat / 11)).length) = true →
      exec .txPack s = .next { s with
        enc := { s.enc with
          txq := s.enc.txq ++ chunk (s.enc.pin.map encodePoint) (s.enc.maxdg.toNat / 11)
          ndgram := s.enc.ndgram +
            BitVec.ofNat 32 (chunk (s.enc.pin.map encodePoint) (s.enc.maxdg.toNat / 11)).length }
        res := { s.res with
          q0 := toReg32 .q0 (chunk (s.enc.pin.map encodePoint) (s.enc.maxdg.toNat / 11)).length, status := 0x00 } }) ∧
    (s.enc.session = true →
      s.cfg.txqCap.admits
        (s.enc.txq.length + (chunk (s.enc.pin.map encodePoint) (s.enc.maxdg.toNat / 11)).length) = false →
      exec .txPack s = .next { s with res := { s.res with q0 := 0, status := 0x22 } })

/-- Rules R206, R207: TX_CLOSE closes the session whether or not the teardown datagram fits, and sends nothing with no
session open. -/
def Obligations.TxCloseEndsTheSession : Prop :=
  ∀ s : State,
    (s.enc.session = false → exec .txClose s = .next { s with res := { s.res with q0 := 0, status := 0x00 } }) ∧
    (s.enc.session = true → s.cfg.txqCap.admits (s.enc.txq.length + 1) = true →
      exec .txClose s = .next { s with
        enc := { s.enc with session := false, txq := s.enc.txq ++ [[0x00]], ndgram := s.enc.ndgram + 1 }
        res := { s.res with q0 := 1, status := 0x00 } }) ∧
    (s.enc.session = true → s.cfg.txqCap.admits (s.enc.txq.length + 1) = false →
      exec .txClose s = .next { s with
        enc := { s.enc with session := false }
        res := { s.res with q0 := 0, status := 0x22 } })

/-- Rule R208: TX_SET_MAXDG stores a value in 11..65535 and refuses every other. -/
def Obligations.TxSetMaxdgStoresLegalValues : Prop :=
  ∀ s : State,
    (11 ≤ s.arg.arg0.toNat → s.arg.arg0.toNat ≤ 65535 →
      exec .txSetMaxdg s = .next { s with
        enc := { s.enc with maxdg := BitVec.ofNat 16 s.arg.arg0.toNat }
        res := { s.res with status := 0x00 } }) ∧
    ((s.arg.arg0.toNat < 11 ∨ 65535 < s.arg.arg0.toNat) →
      exec .txSetMaxdg s = .next { s with res := { s.res with status := 0xE0 } })

/-- Rule R200: for hz ≥ 1 the period is a nearest integer to 1000000 / hz, the even one on a tie, raised to 1 where
that is 0; period_us(0) = 1. -/
def Obligations.PeriodIsTheNearestInteger : Prop :=
  periodUs 0 = 1 ∧
  ∀ hz : Word, hz ≠ 0 → ∃ p : Nat,
    2 * p * hz.toNat ≤ 2000000 + hz.toNat ∧ 2000000 ≤ 2 * p * hz.toNat + hz.toNat ∧
    (2 * p * hz.toNat = 2000000 + hz.toNat ∨ 2000000 = 2 * p * hz.toNat + hz.toNat → p % 2 = 0) ∧
    (periodUs hz).toNat = max p 1 ∧ (periodUs hz).toNat ≤ 1000000

/-- Rules R196, R199, R209: the chunks of m points, for TX_MAXDG ≥ 11. -/
def Obligations.ChunksHoldWholeRecords : Prop :=
  ∀ (pts : List WirePoint) (maxdg : Nat), 11 ≤ maxdg →
    (chunk (pts.map encodePoint) (maxdg / 11)).flatten = pts.flatMap encodePoint ∧
    (chunk (pts.map encodePoint) (maxdg / 11)).length = (pts.length + maxdg / 11 - 1) / (maxdg / 11) ∧
    (∀ d ∈ chunk (pts.map encodePoint) (maxdg / 11), 11 ≤ d.length ∧ d.length % 11 = 0 ∧ d.length ≤ maxdg) ∧
    (∀ (j : Nat) (d : List Byte), (chunk (pts.map encodePoint) (maxdg / 11))[j]? = some d →
      j + 1 < (chunk (pts.map encodePoint) (maxdg / 11)).length → d.length = 11 * (maxdg / 11))

/-- Rules R187, R196, R209: every datagram that TX_PACK emits parses with PARSE_END, and the points parsed from all of
them, in order, are PIN's points with their channels forced or expanded and the blank flag inferred. -/
def Obligations.PackedDatagramsParseBack : Prop :=
  ∀ (s t : State), 11 ≤ s.enc.maxdg.toNat → exec .txPack s = .next t → t.res.status = 0x00 →
    ∃ (ds : List (List Byte)) (parts : List (List WirePoint)),
      t.enc.txq = s.enc.txq ++ ds ∧ parts.flatten = s.enc.pin.map throughWire ∧
      List.Forall₂ (fun d part => ∀ (u : State) (now : Time), u.prs.rbuf = d → ∃ v,
        exec (.parseIwp now) u = .next v ∧ v.res.status = 0x10 ∧ v.prs.pkt.points = part) ds parts

/-! ### The sequencer -/

/-- 44_sequencer.md rule R225: SEQ_LOAD. SEQ_N is written through `toReg32` (assumption log 3). -/
def Obligations.SeqLoadCopiesTheFrames : Prop :=
  ∀ s : State,
    exec .seqLoad s = .next { s with
      seq := { s.seq with flist := s.dec.fstore, n := toReg32 .seqN s.dec.fstore.length, index := 0, state := .stopped }
      res := { s.res with q0 := toReg32 .seqN s.dec.fstore.length, status := 0x00 } } ∧
    (s.dec.fstore.length < 4294967296 →
      toReg32 .seqN s.dec.fstore.length = BitVec.ofNat 32 s.dec.fstore.length)

/-- Rules R227, R228, R229: SEQ_PLAY, SEQ_PAUSE, SEQ_STOP from every state. That the three write Q0 is what these rules
say, while the results column of 30_encoding.md rule R110 shows a dash for them and 45_host_misc.md rule R265 lets a
command write only the Q registers it names: the model follows the commands' own rules (assumption log 11, DEDUCED). -/
def Obligations.PlayPauseStopTransitions : Prop :=
  ∀ (s : State) (now : Time),
    (s.seq.state = .playing →
      exec (.seqPlay now) s = .next { s with res := { s.res with q0 := 2, status := 0x00 } }) ∧
    (s.seq.state ≠ .playing →
      exec (.seqPlay now) s = .next { s with
        seq := { s.seq with state := .playing, last := now }, res := { s.res with q0 := 2, status := 0x00 } }) ∧
    (s.seq.state = .playing →
      exec .seqPause s = .next { s with
        seq := { s.seq with state := .paused }, res := { s.res with q0 := 1, status := 0x00 } }) ∧
    (s.seq.state = .paused → exec .seqPause s = .next { s with res := { s.res with q0 := 1, status := 0x00 } }) ∧
    (s.seq.state = .stopped → exec .seqPause s = .next { s with res := { s.res with q0 := 0, status := 0x00 } }) ∧
    exec .seqStop s = .next { s with
      seq := { s.seq with state := .stopped, index := 0 }, res := { s.res with q0 := 0, status := 0x00 } }

/-- Rules R230, R231, R232: SEQ_UPDATE. A natural subtraction is the rule's `elapsed`. -/
def Obligations.SeqUpdateAdvancesWhenDue : Prop :=
  ∀ (s : State) (now : Time),
    ((s.seq.state ≠ .playing ∨ s.seq.n = 0 ∨
        (now.toNat - s.seq.last.toNat) * s.seq.fps.toNat * s.seq.speed.toNat < 1000000000000) →
      exec (.seqUpdate now) s = .next { s with res := { s.res with q0 := 0, q1 := s.seq.index, status := 0x00 } }) ∧
    (s.seq.state = .playing → s.seq.n ≠ 0 →
      1000000000000 ≤ (now.toNat - s.seq.last.toNat) * s.seq.fps.toNat * s.seq.speed.toNat →
      (s.seq.index.toNat + 1 < s.seq.n.toNat →
        exec (.seqUpdate now) s = .next { s with
          seq := { s.seq with index := s.seq.index + 1, last := now }
          res := { s.res with q0 := 1, q1 := s.seq.index + 1, status := 0x00 } }) ∧
      (s.seq.n.toNat ≤ s.seq.index.toNat + 1 → s.seq.loop = true →
        exec (.seqUpdate now) s = .next { s with
          seq := { s.seq with index := 0, last := now }
          res := { s.res with q0 := if s.seq.index = 0 then 0 else 1, q1 := 0, status := 0x00 } }) ∧
      (s.seq.n.toNat ≤ s.seq.index.toNat + 1 → s.seq.loop = false →
        exec (.seqUpdate now) s = .next { s with
          seq := { s.seq with index := s.seq.n - 1, state := .paused, last := now }
          res := { s.res with q0 := if s.seq.index = s.seq.n - 1 then 0 else 1, q1 := s.seq.n - 1, status := 0x00 } }))

/-- Rules R226, R230, R233, R234: SEQ_NEXT and SEQ_PREV, with no frame and with frames. -/
def Obligations.SeqNextPrevMoveTheIndex : Prop :=
  ∀ s : State,
    (s.seq.n = 0 →
      exec .seqNext s = .next { s with res := { s.res with q0 := s.seq.index, status := 0x00 } } ∧
      exec .seqPrev s = .next { s with res := { s.res with q0 := s.seq.index, status := 0x00 } }) ∧
    (s.seq.n ≠ 0 → s.seq.index.toNat + 1 < s.seq.n.toNat →
      exec .seqNext s = .next { s with
        seq := { s.seq with index := s.seq.index + 1 }
        res := { s.res with q0 := s.seq.index + 1, status := 0x00 } }) ∧
    (s.seq.n ≠ 0 → s.seq.n.toNat ≤ s.seq.index.toNat + 1 → s.seq.loop = true →
      exec .seqNext s = .next { s with
        seq := { s.seq with index := 0 }, res := { s.res with q0 := 0, status := 0x00 } }) ∧
    (s.seq.n ≠ 0 → s.seq.n.toNat ≤ s.seq.index.toNat + 1 → s.seq.loop = false →
      exec .seqNext s = .next { s with
        seq := { s.seq with index := s.seq.n - 1, state := if s.seq.state = .playing then .paused else s.seq.state }
        res := { s.res with q0 := s.seq.n - 1, status := 0x00 } }) ∧
    (s.seq.n ≠ 0 → ∃ i : Word, i.toNat = (s.seq.index.toNat + s.seq.n.toNat - 1) % s.seq.n.toNat ∧
      exec .seqPrev s = .next { s with
        seq := { s.seq with index := i }, res := { s.res with q0 := i, status := 0x00 } })

/-- Rules R235 to R238: the setters and the snapshot. That SEQ_SET_LOOP writes Q0 is what rule R235 says, while the results
column of 30_encoding.md rule R110 shows a dash for it: the model follows the command's own rule (assumption log 11,
DEDUCED). -/
def Obligations.SeqSettersAndSnapshot : Prop :=
  ∀ s : State, ∃ fps speed : Word,
    fps.toNat = min (max s.arg.arg0.toNat 100) 1000000 ∧ speed.toNat = min (max s.arg.arg0.toNat 100) 10000 ∧
    exec .seqSetFps s = .next { s with
      seq := { s.seq with fps := fps }, res := { s.res with q0 := fps, status := 0x00 } } ∧
    exec .seqSetSpeed s = .next { s with
      seq := { s.seq with speed := speed }, res := { s.res with q0 := speed, status := 0x00 } } ∧
    exec .seqSetLoop s = .next { s with
      seq := { s.seq with loop := s.arg.arg0.getLsbD 0 }
      res := { s.res with q0 := if s.arg.arg0.toNat % 2 = 1 then 1 else 0, status := 0x00 } } ∧
    exec .seqSnapshot s = .next { s with
      res := { s.res with q0 := s.seq.index, q1 := s.seq.n, status := 0x00
                          q2 := match s.seq.state with | .stopped => 0 | .paused => 1 | .playing => 2 } }

/-- Rule R240, P2 and P4: SEQ_STATE becomes PLAYING only through SEQ_PLAY; with SEQ_LOOP = 1 only SEQ_PAUSE, SEQ_STOP
and SEQ_LOAD leave PLAYING. -/
def Obligations.PlayingEntersAndLeavesByCommand : Prop :=
  ∀ (i : Instr) (s t : State), exec i s = .next t →
    (t.seq.state = .playing → s.seq.state ≠ .playing → ∃ now, i = .seqPlay now) ∧
    (s.seq.state = .playing → s.seq.loop = true → t.seq.state ≠ .playing →
      i = .seqPause ∨ i = .seqStop ∨ i = .seqLoad)

/-- Rule R240, P5: with SEQ_LOOP = 0, playing from index 0 of N frames with every SEQ_UPDATE due, each of the first
N - 1 updates returns 1, and the N-th returns 0 and leaves PAUSED at index N - 1. -/
def Obligations.PlaysToTheEndAndPauses : Prop :=
  ∀ (s : State) (ts : List Time), s.seq.state = .playing → s.seq.loop = false → s.seq.index = 0 → s.seq.n ≠ 0 →
    List.IsChain (fun a b : Time => 1000000000000 ≤ (b.toNat - a.toNat) * s.seq.fps.toNat * s.seq.speed.toNat)
      (s.seq.last :: ts) →
    (0 < ts.length → ts.length < s.seq.n.toNat → ∃ t, execAll (ts.map Instr.seqUpdate) s = .next t ∧
      t.seq.state = .playing ∧ t.seq.index.toNat = ts.length ∧ t.res.q0 = 1) ∧
    (ts.length = s.seq.n.toNat → ∃ t, execAll (ts.map Instr.seqUpdate) s = .next t ∧
      t.seq.state = .paused ∧ t.seq.index = s.seq.n - 1 ∧ t.res.q0 = 0)

/-! ### Host interface commands -/

/-- 45_host_misc.md rules R260 to R262 with 10_state.md rule R47: NOP, and RD_REG of each kind of register, read before
Q0 and STATUS are written. The clause for register 0x00, STATUS, is the model's choice: it follows rule R261, while
20_memory.md rule R72 calls RD_REG idempotent (assumption log 15, DESIGN CHOICE). That the register number is ARG0's low
byte is the model's reading of rule R261 against the bare ARG0 of 30_encoding.md rule R110 (assumption log 17, DEDUCED).
A natural number is read through `toReg32` (assumption log 3). -/
def Obligations.NopAndRegisterReads : Prop :=
  ∀ s : State,
    exec .nop s = .next { s with res := { s.res with status := 0x00 } } ∧
    (∀ v : Word,
      ((s.arg.arg0.toNat % 256, v) ∈
        [(0x00, s.res.status.zeroExtend 32), (0x01, s.res.q0), (0x02, s.res.q1), (0x03, s.res.q2), (0x04, s.res.q3),
         (0x08, s.arg.arg0), (0x09, s.arg.arg1), (0x0A, s.arg.arg2), (0x0B, s.arg.arg3),
         (0x10, toReg32 (.reg 0x10) s.dec.off), (0x11, s.dec.nframes), (0x12, s.dec.stop.zeroExtend 32),
         (0x20, match s.seq.state with | .stopped => 0 | .paused => 1 | .playing => 2), (0x21, s.seq.index),
         (0x22, if s.seq.loop then 1 else 0), (0x23, s.seq.fps), (0x24, s.seq.speed),
         (0x25, BitVec.ofNat 32 s.seq.last.toNat), (0x26, BitVec.ofNat 32 (s.seq.last.toNat / 4294967296)),
         (0x27, s.seq.n), (0x30, s.enc.maxdg.zeroExtend 32), (0x31, s.enc.scanHz), (0x32, s.enc.period),
         (0x33, if s.enc.session then 1 else 0), (0x34, s.enc.ndgram),
         (0x40, s.prs.received), (0x41, s.prs.valid), (0x42, s.prs.invalid),
         (0x48, toReg32 (.reg 0x48) s.prs.pkt.points.length), (0x49, toReg32 (.reg 0x49) s.prs.pkt.cmds.length),
         (0x4A, if s.prs.pkt.period.isSome then 1 else 0), (0x4B, s.prs.pkt.period.getD 0),
         (0x4C, BitVec.ofNat 32 s.prs.pkt.time.toNat),
         (0x4D, BitVec.ofNat 32 (s.prs.pkt.time.toNat / 4294967296)),
         (0x4E, toReg32 (.reg 0x4E) s.prs.pkt.len), (0x4F, toReg32 (.reg 0x4F) s.prs.pkt.endOff),
         (0x50, s.prs.pkt.stop.zeroExtend 32), (0x60, toReg32 (.reg 0x60) s.enc.pin.length)]) →
      exec .rdReg s = .next { s with res := { s.res with q0 := v, status := 0x00 } }) ∧
    (s.arg.arg0.toNat % 256 ∉
        [0x00, 0x01, 0x02, 0x03, 0x04, 0x08, 0x09, 0x0A, 0x0B, 0x10, 0x11, 0x12, 0x20, 0x21, 0x22, 0x23, 0x24, 0x25, 0x26,
         0x27, 0x30, 0x31, 0x32, 0x33, 0x34, 0x40, 0x41, 0x42, 0x48, 0x49, 0x4A, 0x4B, 0x4C, 0x4D, 0x4E, 0x4F, 0x50,
         0x60] →
      exec .rdReg s = .next { s with res := { s.res with q0 := 0, status := 0xE0 } })
end

