-- ==== Sys2Proof/Laws/Bytes.lean ====
section
/-!
SUPPORT. Big-endian reads undo big-endian writes (00_scope.md rule R12), and what a byte string reads as at an offset.
-/

namespace Sys2Proof

@[simp] theorem byteAt_cons_zero (b : Byte) (bs : List Byte) : byteAt (b :: bs) 0 = b := rfl

@[simp] theorem byteAt_cons_succ (b : Byte) (bs : List Byte) (n : Nat) : byteAt (b :: bs) (n + 1) = byteAt bs n := by
  simp [byteAt]

theorem byteAt_append_right (xs ys : List Byte) (n : Nat) (h : xs.length ≤ n) :
    byteAt (xs ++ ys) n = byteAt ys (n - xs.length) := by
  simp [byteAt, List.getElem?_append_right h]

theorem byteAt_drop (bs : List Byte) (k n : Nat) : byteAt (bs.drop k) n = byteAt bs (k + n) := by
  simp [byteAt]

theorem be16_put16 (v : Half) : be16 (v.extractLsb' 8 8) (v.extractLsb' 0 8) = v := by
  apply BitVec.eq_of_getLsbD_eq
  intro i hi
  simp only [be16, BitVec.getLsbD_append, BitVec.getLsbD_extractLsb']
  by_cases h : i < 8
  · simp [h]
  · have : i - 8 < 8 := by omega
    simp [h, this]
    congr 1; omega

theorem be32_put32 (v : Word) :
    be32 (v.extractLsb' 24 8) (v.extractLsb' 16 8) (v.extractLsb' 8 8) (v.extractLsb' 0 8) = v := by
  apply BitVec.eq_of_getLsbD_eq
  intro i hi
  simp only [be32, BitVec.getLsbD_append, BitVec.getLsbD_extractLsb']
  by_cases h0 : i < 8
  · simp [h0]
  · by_cases h1 : i - 8 < 8
    · simp [h0, h1]; congr 1; omega
    · by_cases h2 : i - 8 - 8 < 8
      · simp [h0, h1, h2]; congr 1; omega
      · have : i - 8 - 8 - 8 < 8 := by omega
        simp [h0, h1, h2, this]; congr 1; omega

theorem put16_be16 (hi lo : Byte) : put16 (be16 hi lo) = [hi, lo] := by
  have h1 : (be16 hi lo).extractLsb' 8 8 = hi := by
    apply BitVec.eq_of_getLsbD_eq
    intro i h
    simp only [be16, BitVec.getLsbD_extractLsb', BitVec.getLsbD_append]
    have : ¬ (8 + i < 8) := by omega
    simp [h]
  have h2 : (be16 hi lo).extractLsb' 0 8 = lo := by
    apply BitVec.eq_of_getLsbD_eq
    intro i h
    simp only [be16, BitVec.getLsbD_extractLsb', BitVec.getLsbD_append]
    simp [h]
  rw [put16, h1, h2]

theorem put32_be32 (b3 b2 b1 b0 : Byte) : put32 (be32 b3 b2 b1 b0) = [b3, b2, b1, b0] := by
  have e0 : (be32 b3 b2 b1 b0).extractLsb' 0 8 = b0 := by
    apply BitVec.eq_of_getLsbD_eq
    intro i h
    simp only [be32, BitVec.getLsbD_extractLsb', BitVec.getLsbD_append]
    simp [h]
  have e1 : (be32 b3 b2 b1 b0).extractLsb' 8 8 = b1 := by
    apply BitVec.eq_of_getLsbD_eq
    intro i h
    simp only [be32, BitVec.getLsbD_extractLsb', BitVec.getLsbD_append]
    simp [h]
  have e2 : (be32 b3 b2 b1 b0).extractLsb' 16 8 = b2 := by
    apply BitVec.eq_of_getLsbD_eq
    intro i h
    simp only [be32, BitVec.getLsbD_extractLsb', BitVec.getLsbD_append]
    have : ¬ (16 + i < 8) := by omega
    have : ¬ (16 + i - 8 < 8) := by omega
    have e : 16 + i - 8 - 8 = i := by omega
    simp [*]
  have e3 : (be32 b3 b2 b1 b0).extractLsb' 24 8 = b3 := by
    apply BitVec.eq_of_getLsbD_eq
    intro i h
    simp only [be32, BitVec.getLsbD_extractLsb', BitVec.getLsbD_append]
    have : ¬ (24 + i < 8) := by omega
    have : ¬ (24 + i - 8 < 8) := by omega
    have : ¬ (24 + i - 8 - 8 < 8) := by omega
    have e : 24 + i - 8 - 8 - 8 = i := by omega
    simp [*]
  rw [put32, e3, e2, e1, e0]

@[simp] theorem put16_length (v : Half) : (put16 v).length = 2 := rfl

@[simp] theorem put32_length (v : Word) : (put32 v).length = 4 := rfl

/-- Reading two bytes where `put16 v` stands. -/
@[simp] theorem be16At_put16 (v : Half) (rest : List Byte) : be16At (put16 v ++ rest) 0 = v := by
  simpa [be16At, put16] using be16_put16 v

/-- Reading four bytes where `put32 v` stands. -/
@[simp] theorem be32At_put32 (v : Word) (rest : List Byte) : be32At (put32 v ++ rest) 0 = v := by
  simpa [be32At, put32] using be32_put32 v

theorem be16At_append_right (xs ys : List Byte) (n : Nat) (h : xs.length ≤ n) :
    be16At (xs ++ ys) n = be16At ys (n - xs.length) := by
  simp only [be16At]
  rw [byteAt_append_right _ _ _ h, byteAt_append_right _ _ _ (by omega)]
  congr 2
  omega

theorem be32At_append_right (xs ys : List Byte) (n : Nat) (h : xs.length ≤ n) :
    be32At (xs ++ ys) n = be32At ys (n - xs.length) := by
  simp only [be32At]
  rw [byteAt_append_right _ _ _ h, byteAt_append_right _ _ _ (by omega), byteAt_append_right _ _ _ (by omega),
    byteAt_append_right _ _ _ (by omega)]
  congr 2 <;> omega

end Sys2Proof
end

