-- ==== Sys2Proof/Laws/Decode.lean ====
section
/-!
SUPPORT. The pieces of the encodings: what a header and a record read back as, how long each unit is, and what each
decoder can answer.
-/

namespace Sys2Proof

/-! ### Headers -/

theorem toList_eight (v : Vector Byte 8) : v.toList = [v[0], v[1], v[2], v[3], v[4], v[5], v[6], v[7]] := by
  apply List.ext_getElem
  · simp
  · intro i h1 h2
    have : i < 8 := by simpa using h1
    interval_cases i <;> simp

/-- The 32 bytes of a header, written out (rule R86). -/
theorem encodeHeader_eq (h : Header) : encodeHeader h =
    [0x49, 0x4C, 0x44, 0x41, 0, 0, 0, h.fmt,
     h.name[0], h.name[1], h.name[2], h.name[3], h.name[4], h.name[5], h.name[6], h.name[7],
     h.company[0], h.company[1], h.company[2], h.company[3], h.company[4], h.company[5], h.company[6], h.company[7],
     h.count.extractLsb' 8 8, h.count.extractLsb' 0 8, h.findex.extractLsb' 8 8, h.findex.extractLsb' 0 8,
     h.total.extractLsb' 8 8, h.total.extractLsb' 0 8, h.proj, 0] := by
  simp [encodeHeader, toList_eight, magic, put16]

@[simp] theorem encodeHeader_length (h : Header) : (encodeHeader h).length = 32 := by
  rw [encodeHeader_eq]; rfl

theorem encodeHeader_magic (h : Header) (rest : List Byte) : (encodeHeader h ++ rest).take 4 = magic := by
  rw [encodeHeader_eq]; rfl

theorem bytes8At_eq (bs : List Byte) (a : Nat) (v : Vector Byte 8)
    (h : ∀ i : Fin 8, byteAt bs (a + i) = v[i]) : bytes8At bs a = v := by
  apply Vector.ext
  intro i hi
  simpa [bytes8At] using h ⟨i, hi⟩

/-- A header reads back whatever follows it (rules R86, R122). -/
theorem readHeader_encodeHeader (h : Header) (rest : List Byte) : readHeader (encodeHeader h ++ rest) = h := by
  have hn : bytes8At (encodeHeader h ++ rest) offName = h.name := by
    apply bytes8At_eq
    intro i
    rw [encodeHeader_eq]
    match i with
    | 0 => rfl | 1 => rfl | 2 => rfl | 3 => rfl | 4 => rfl | 5 => rfl | 6 => rfl | 7 => rfl
  have hc : bytes8At (encodeHeader h ++ rest) offCompany = h.company := by
    apply bytes8At_eq
    intro i
    rw [encodeHeader_eq]
    match i with
    | 0 => rfl | 1 => rfl | 2 => rfl | 3 => rfl | 4 => rfl | 5 => rfl | 6 => rfl | 7 => rfl
  have h1 : be16At (encodeHeader h ++ rest) offCount = h.count := by
    rw [encodeHeader_eq]; exact be16_put16 h.count
  have h2 : be16At (encodeHeader h ++ rest) offFindex = h.findex := by
    rw [encodeHeader_eq]; exact be16_put16 h.findex
  have h3 : be16At (encodeHeader h ++ rest) offTotal = h.total := by
    rw [encodeHeader_eq]; exact be16_put16 h.total
  have h4 : byteAt (encodeHeader h ++ rest) offFmt = h.fmt := by rw [encodeHeader_eq]; rfl
  have h5 : byteAt (encodeHeader h ++ rest) offProj = h.proj := by rw [encodeHeader_eq]; rfl
  simp [readHeader, hn, hc, h1, h2, h3, h4, h5]

/-! ### Records -/

@[simp] theorem encodeIndexed3_length (p : Indexed3) : (encodeIndexed3 p).length = 8 := rfl
@[simp] theorem encodeIndexed2_length (p : Indexed2) : (encodeIndexed2 p).length = 6 := rfl
@[simp] theorem encodeRgb_length (c : Rgb) : (encodeRgb c).length = 3 := rfl
@[simp] theorem encodeTrue3_length (p : True3) : (encodeTrue3 p).length = 10 := rfl
@[simp] theorem encodeTrue2_length (p : True2) : (encodeTrue2 p).length = 8 := rfl

theorem readIndexed3_encode (p : Indexed3) (rest : List Byte) : readIndexed3 (encodeIndexed3 p ++ rest) = p := by
  cases p
  simp [readIndexed3, encodeIndexed3, put16, be16At, be16_put16]

theorem readIndexed2_encode (p : Indexed2) (rest : List Byte) : readIndexed2 (encodeIndexed2 p ++ rest) = p := by
  cases p
  simp [readIndexed2, encodeIndexed2, put16, be16At, be16_put16]

theorem readRgb_encode (c : Rgb) (rest : List Byte) : readRgb (encodeRgb c ++ rest) = c := by
  cases c
  simp [readRgb, encodeRgb]

theorem readTrue3_encode (p : True3) (rest : List Byte) : readTrue3 (encodeTrue3 p ++ rest) = p := by
  cases p
  simp [readTrue3, encodeTrue3, put16, be16At, be16_put16]

theorem readTrue2_encode (p : True2) (rest : List Byte) : readTrue2 (encodeTrue2 p ++ rest) = p := by
  cases p
  simp [readTrue2, encodeTrue2, put16, be16At, be16_put16]

@[simp] theorem readRecords_length {α : Type} (rd : List Byte → α) (rs k : Nat) (bs : List Byte) :
    (readRecords rd rs k bs).length = k := by
  induction k generalizing bs with
  | zero => rfl
  | succ k ih => simp [readRecords, ih]

/-- Record j stands at `j*rs` (rule R124). -/
theorem readRecords_getElem {α : Type} (rd : List Byte → α) (rs k : Nat) (bs : List Byte) (j : Nat) (hj : j < k) :
    (readRecords rd rs k bs)[j]? = some (rd (bs.drop (j * rs))) := by
  induction k generalizing bs j with
  | zero => omega
  | succ k ih =>
    cases j with
    | zero => simp [readRecords]
    | succ j =>
      simp only [readRecords, List.getElem?_cons_succ]
      rw [ih _ _ (by omega), List.drop_drop]
      congr 3
      rw [Nat.succ_mul]; omega

/-- Records written back to back read back, whatever follows them. -/
theorem readRecords_flatMap {α : Type} (rd : List Byte → α) (wr : α → List Byte) (rs : Nat)
    (hlen : ∀ a, (wr a).length = rs) (hrd : ∀ a rest, rd (wr a ++ rest) = a) (recs : List α) (rest : List Byte) :
    readRecords rd rs recs.length (recs.flatMap wr ++ rest) = recs := by
  induction recs with
  | nil => rfl
  | cons a as ih =>
    have hd : (wr a ++ (as.flatMap wr ++ rest)).drop rs = as.flatMap wr ++ rest := by
      rw [← hlen a]; exact List.drop_left
    simp only [List.length_cons, readRecords, List.flatMap_cons, List.append_assoc, hrd, hd, ih]

theorem flatMap_length_const {α : Type} (wr : α → List Byte) (rs : Nat) (hlen : ∀ a, (wr a).length = rs)
    (recs : List α) : (recs.flatMap wr).length = recs.length * rs := by
  induction recs with
  | nil => simp
  | cons a as ih => simp [hlen, ih, Nat.succ_mul, Nat.add_comm]

/-- `k` never exceeds the count, and `k` records fit in the bytes present (rule R124). -/
theorem recordsPresent_le (h : Header) (rs : Nat) (body : List Byte) :
    recordsPresent h rs body ≤ h.count.toNat ∧ recordsPresent h rs body * rs ≤ body.length := by
  refine ⟨Nat.min_le_left _ _, ?_⟩
  exact Nat.le_trans (Nat.mul_le_mul_right rs (Nat.min_le_right _ _)) (Nat.div_mul_le_self _ _)

/-! ### Sections and commands -/

/-- What `decodeSec` can answer: a section has 32 bytes before its records, begins with the magic, and each of the five
formats reads its own records (rules R121, R124, R128). -/
theorem decodeSec_ok {bs : List Byte} {x : Sec} (hx : decodeSec bs = .ok x) :
    32 ≤ bs.length ∧ bs.take 4 = magic ∧
      ((x = .fmt0 (readHeader bs) (readRecords readIndexed3 8 (recordsPresent (readHeader bs) 8 (bs.drop 32)) (bs.drop 32)) ∧
          (readHeader bs).fmt.toNat = 0) ∨
       (x = .fmt1 (readHeader bs) (readRecords readIndexed2 6 (recordsPresent (readHeader bs) 6 (bs.drop 32)) (bs.drop 32)) ∧
          (readHeader bs).fmt.toNat = 1) ∨
       (x = .fmt2 (readHeader bs) (readRecords readRgb 3 (recordsPresent (readHeader bs) 3 (bs.drop 32)) (bs.drop 32)) ∧
          (readHeader bs).fmt.toNat = 2) ∨
       (x = .fmt4 (readHeader bs) (readRecords readTrue3 10 (recordsPresent (readHeader bs) 10 (bs.drop 32)) (bs.drop 32)) ∧
          (readHeader bs).fmt.toNat = 4) ∨
       (x = .fmt5 (readHeader bs) (readRecords readTrue2 8 (recordsPresent (readHeader bs) 8 (bs.drop 32)) (bs.drop 32)) ∧
          (readHeader bs).fmt.toNat = 5)) := by
  unfold decodeSec at hx
  split at hx
  · cases hx
  · split at hx
    · cases hx
    · rename_i h1 h2
      refine ⟨by simpa [hdrBytes] using h1, by simpa using h2, ?_⟩
      dsimp only [hdrBytes] at hx
      split at hx <;> first | (cases hx; done) | (injection hx with hx; subst hx; simp [*])

/-- Why `decodeSec` answers no section (rules R121, R128). -/
theorem decodeSec_error {bs : List Byte} {e : SecReject} (hx : decodeSec bs = .error e) :
    (e = .shortHeader ∧ bs.length < 32) ∨
    (e = .badMagic ∧ 32 ≤ bs.length ∧ bs.take 4 ≠ magic) ∨
    (e = .unsupportedFormat (byteAt bs 7) ∧ 32 ≤ bs.length ∧ bs.take 4 = magic ∧ recsize (byteAt bs 7) = none) := by
  unfold decodeSec at hx
  split at hx
  · rename_i h; injection hx with hx; exact .inl ⟨hx.symm, h⟩
  · rename_i h1
    have h1' : 32 ≤ bs.length := by simpa [hdrBytes] using h1
    split at hx
    · rename_i h; injection hx with hx; exact .inr (.inl ⟨hx.symm, h1', h⟩)
    · rename_i h2
      dsimp only at hx
      split at hx <;> first
        | (cases hx; done)
        | (injection hx with hx
           refine .inr (.inr ⟨hx.symm, h1', by simpa using h2, ?_⟩)
           show recsize (readHeader bs).fmt = none
           unfold recsize
           split <;> simp_all)

@[simp] theorem encodeCmd_length (c : RawCmd) : (encodeCmd c).length = c.length := by
  cases c <;> rfl

theorem RawCmd.length_pos (c : RawCmd) : 1 ≤ c.length := by
  cases c <;> simp [RawCmd.length]

/-- A command at the head of a byte string is read back, whatever follows it (rules R101 to R104). -/
theorem decodeCmd_encodeCmd (c : RawCmd) (rest : List Byte) : decodeCmd (encodeCmd c ++ rest) = .ok c := by
  cases c <;>
    simp [decodeCmd, encodeCmd, cmdlen, put16, put32, be16At, be32At, be16_put16, be32_put32]

/-- Why `decodeCmd` answers no command (rules R175, R178, R179). -/
theorem decodeCmd_error {bs : List Byte} {e : CmdReject} (hx : decodeCmd bs = .error e) :
    (e = .atEnd ∧ bs = []) ∨
    (e = .unknownCommand (byteAt bs 0) ∧ bs ≠ [] ∧ cmdlen (byteAt bs 0) = none) ∨
    (∃ n, e = .truncatedCommand (byteAt bs 0) ∧ bs ≠ [] ∧ cmdlen (byteAt bs 0) = some n ∧ bs.length < n) := by
  unfold decodeCmd at hx
  split at hx
  · rename_i h; injection hx with hx; exact .inl ⟨hx.symm, by simpa using h⟩
  · rename_i h
    have hne : bs ≠ [] := by intro hb; simp [hb] at h
    dsimp only at hx
    split at hx
    · rename_i hc; injection hx with hx; exact .inr (.inl ⟨hx.symm, hne, hc⟩)
    · rename_i n hc
      split at hx
      · rename_i hl; injection hx with hx; exact .inr (.inr ⟨n, hx.symm, hne, hc, hl⟩)
      · split at hx <;> cases hx

end Sys2Proof
end

