-- ==== Sys2Proof/Laws/State.lean ====
section
/-!
SUPPORT. What each named update of State does to each field: one lemma per field per update, true by definition.
-/

namespace Sys2Proof.Machine

/-! ### setQ0 -/

@[simp] theorem State.setQ0_arg (s : State) (v : Word) : (s.setQ0 v).arg = s.arg := rfl
@[simp] theorem State.setQ0_q0 (s : State) (v : Word) : (s.setQ0 v).res.q0 = v := rfl
@[simp] theorem State.setQ0_q1 (s : State) (v : Word) : (s.setQ0 v).res.q1 = s.res.q1 := rfl
@[simp] theorem State.setQ0_q2 (s : State) (v : Word) : (s.setQ0 v).res.q2 = s.res.q2 := rfl
@[simp] theorem State.setQ0_q3 (s : State) (v : Word) : (s.setQ0 v).res.q3 = s.res.q3 := rfl
@[simp] theorem State.setQ0_status (s : State) (v : Word) : (s.setQ0 v).res.status = s.res.status := rfl
@[simp] theorem State.setQ0_dec (s : State) (v : Word) : (s.setQ0 v).dec = s.dec := rfl
@[simp] theorem State.setQ0_prs (s : State) (v : Word) : (s.setQ0 v).prs = s.prs := rfl
@[simp] theorem State.setQ0_enc (s : State) (v : Word) : (s.setQ0 v).enc = s.enc := rfl
@[simp] theorem State.setQ0_seq (s : State) (v : Word) : (s.setQ0 v).seq = s.seq := rfl
@[simp] theorem State.setQ0_cfg (s : State) (v : Word) : (s.setQ0 v).cfg = s.cfg := rfl
@[simp] theorem State.setQ0_port (s : State) (v : Word) : (s.setQ0 v).port = s.port := rfl
@[simp] theorem State.setQ0_answer (s : State) (v : Word) : (s.setQ0 v).answer = s.answer := rfl

/-! ### setQ1 -/

@[simp] theorem State.setQ1_arg (s : State) (v : Word) : (s.setQ1 v).arg = s.arg := rfl
@[simp] theorem State.setQ1_q0 (s : State) (v : Word) : (s.setQ1 v).res.q0 = s.res.q0 := rfl
@[simp] theorem State.setQ1_q1 (s : State) (v : Word) : (s.setQ1 v).res.q1 = v := rfl
@[simp] theorem State.setQ1_q2 (s : State) (v : Word) : (s.setQ1 v).res.q2 = s.res.q2 := rfl
@[simp] theorem State.setQ1_q3 (s : State) (v : Word) : (s.setQ1 v).res.q3 = s.res.q3 := rfl
@[simp] theorem State.setQ1_status (s : State) (v : Word) : (s.setQ1 v).res.status = s.res.status := rfl
@[simp] theorem State.setQ1_dec (s : State) (v : Word) : (s.setQ1 v).dec = s.dec := rfl
@[simp] theorem State.setQ1_prs (s : State) (v : Word) : (s.setQ1 v).prs = s.prs := rfl
@[simp] theorem State.setQ1_enc (s : State) (v : Word) : (s.setQ1 v).enc = s.enc := rfl
@[simp] theorem State.setQ1_seq (s : State) (v : Word) : (s.setQ1 v).seq = s.seq := rfl
@[simp] theorem State.setQ1_cfg (s : State) (v : Word) : (s.setQ1 v).cfg = s.cfg := rfl
@[simp] theorem State.setQ1_port (s : State) (v : Word) : (s.setQ1 v).port = s.port := rfl
@[simp] theorem State.setQ1_answer (s : State) (v : Word) : (s.setQ1 v).answer = s.answer := rfl

/-! ### setQ2 -/

@[simp] theorem State.setQ2_arg (s : State) (v : Word) : (s.setQ2 v).arg = s.arg := rfl
@[simp] theorem State.setQ2_q0 (s : State) (v : Word) : (s.setQ2 v).res.q0 = s.res.q0 := rfl
@[simp] theorem State.setQ2_q1 (s : State) (v : Word) : (s.setQ2 v).res.q1 = s.res.q1 := rfl
@[simp] theorem State.setQ2_q2 (s : State) (v : Word) : (s.setQ2 v).res.q2 = v := rfl
@[simp] theorem State.setQ2_q3 (s : State) (v : Word) : (s.setQ2 v).res.q3 = s.res.q3 := rfl
@[simp] theorem State.setQ2_status (s : State) (v : Word) : (s.setQ2 v).res.status = s.res.status := rfl
@[simp] theorem State.setQ2_dec (s : State) (v : Word) : (s.setQ2 v).dec = s.dec := rfl
@[simp] theorem State.setQ2_prs (s : State) (v : Word) : (s.setQ2 v).prs = s.prs := rfl
@[simp] theorem State.setQ2_enc (s : State) (v : Word) : (s.setQ2 v).enc = s.enc := rfl
@[simp] theorem State.setQ2_seq (s : State) (v : Word) : (s.setQ2 v).seq = s.seq := rfl
@[simp] theorem State.setQ2_cfg (s : State) (v : Word) : (s.setQ2 v).cfg = s.cfg := rfl
@[simp] theorem State.setQ2_port (s : State) (v : Word) : (s.setQ2 v).port = s.port := rfl
@[simp] theorem State.setQ2_answer (s : State) (v : Word) : (s.setQ2 v).answer = s.answer := rfl

/-! ### finish -/

@[simp] theorem State.finish_arg (s : State) (c : Byte) : (s.finish c).arg = s.arg := rfl
@[simp] theorem State.finish_q0 (s : State) (c : Byte) : (s.finish c).res.q0 = s.res.q0 := rfl
@[simp] theorem State.finish_q1 (s : State) (c : Byte) : (s.finish c).res.q1 = s.res.q1 := rfl
@[simp] theorem State.finish_q2 (s : State) (c : Byte) : (s.finish c).res.q2 = s.res.q2 := rfl
@[simp] theorem State.finish_q3 (s : State) (c : Byte) : (s.finish c).res.q3 = s.res.q3 := rfl
@[simp] theorem State.finish_status (s : State) (c : Byte) : (s.finish c).res.status = c := rfl
@[simp] theorem State.finish_dec (s : State) (c : Byte) : (s.finish c).dec = s.dec := rfl
@[simp] theorem State.finish_prs (s : State) (c : Byte) : (s.finish c).prs = s.prs := rfl
@[simp] theorem State.finish_enc (s : State) (c : Byte) : (s.finish c).enc = s.enc := rfl
@[simp] theorem State.finish_seq (s : State) (c : Byte) : (s.finish c).seq = s.seq := rfl
@[simp] theorem State.finish_cfg (s : State) (c : Byte) : (s.finish c).cfg = s.cfg := rfl
@[simp] theorem State.finish_port (s : State) (c : Byte) : (s.finish c).port = s.port := rfl
@[simp] theorem State.finish_answer (s : State) (c : Byte) : (s.finish c).answer = s.answer := rfl

/-! ### raise -/

@[simp] theorem State.raise_arg (s : State) (c : Byte) : (s.raise c).arg = s.arg := rfl
@[simp] theorem State.raise_q0 (s : State) (c : Byte) : (s.raise c).res.q0 = s.res.q0 := rfl
@[simp] theorem State.raise_q1 (s : State) (c : Byte) : (s.raise c).res.q1 = s.res.q1 := rfl
@[simp] theorem State.raise_q2 (s : State) (c : Byte) : (s.raise c).res.q2 = s.res.q2 := rfl
@[simp] theorem State.raise_q3 (s : State) (c : Byte) : (s.raise c).res.q3 = s.res.q3 := rfl
@[simp] theorem State.raise_status (s : State) (c : Byte) : (s.raise c).res.status = c := rfl
@[simp] theorem State.raise_dec (s : State) (c : Byte) : (s.raise c).dec = s.dec := rfl
@[simp] theorem State.raise_prs (s : State) (c : Byte) : (s.raise c).prs = s.prs := rfl
@[simp] theorem State.raise_enc (s : State) (c : Byte) : (s.raise c).enc = s.enc := rfl
@[simp] theorem State.raise_seq (s : State) (c : Byte) : (s.raise c).seq = s.seq := rfl
@[simp] theorem State.raise_cfg (s : State) (c : Byte) : (s.raise c).cfg = s.cfg := rfl
@[simp] theorem State.raise_port (s : State) (c : Byte) : (s.raise c).port = s.port := rfl
@[simp] theorem State.raise_answer (s : State) (c : Byte) : (s.raise c).answer = s.answer := rfl

/-! ### withDec -/

@[simp] theorem State.withDec_arg (s : State) (d : DecoderUnit) : (s.withDec d).arg = s.arg := rfl
@[simp] theorem State.withDec_res (s : State) (d : DecoderUnit) : (s.withDec d).res = s.res := rfl
@[simp] theorem State.withDec_dec (s : State) (d : DecoderUnit) : (s.withDec d).dec = d := rfl
@[simp] theorem State.withDec_prs (s : State) (d : DecoderUnit) : (s.withDec d).prs = s.prs := rfl
@[simp] theorem State.withDec_enc (s : State) (d : DecoderUnit) : (s.withDec d).enc = s.enc := rfl
@[simp] theorem State.withDec_seq (s : State) (d : DecoderUnit) : (s.withDec d).seq = s.seq := rfl
@[simp] theorem State.withDec_cfg (s : State) (d : DecoderUnit) : (s.withDec d).cfg = s.cfg := rfl
@[simp] theorem State.withDec_port (s : State) (d : DecoderUnit) : (s.withDec d).port = s.port := rfl
@[simp] theorem State.withDec_answer (s : State) (d : DecoderUnit) : (s.withDec d).answer = s.answer := rfl

/-! ### withPrs -/

@[simp] theorem State.withPrs_arg (s : State) (p : ParserUnit) : (s.withPrs p).arg = s.arg := rfl
@[simp] theorem State.withPrs_res (s : State) (p : ParserUnit) : (s.withPrs p).res = s.res := rfl
@[simp] theorem State.withPrs_dec (s : State) (p : ParserUnit) : (s.withPrs p).dec = s.dec := rfl
@[simp] theorem State.withPrs_prs (s : State) (p : ParserUnit) : (s.withPrs p).prs = p := rfl
@[simp] theorem State.withPrs_enc (s : State) (p : ParserUnit) : (s.withPrs p).enc = s.enc := rfl
@[simp] theorem State.withPrs_seq (s : State) (p : ParserUnit) : (s.withPrs p).seq = s.seq := rfl
@[simp] theorem State.withPrs_cfg (s : State) (p : ParserUnit) : (s.withPrs p).cfg = s.cfg := rfl
@[simp] theorem State.withPrs_port (s : State) (p : ParserUnit) : (s.withPrs p).port = s.port := rfl
@[simp] theorem State.withPrs_answer (s : State) (p : ParserUnit) : (s.withPrs p).answer = s.answer := rfl

/-! ### withEnc -/

@[simp] theorem State.withEnc_arg (s : State) (e : EncoderUnit) : (s.withEnc e).arg = s.arg := rfl
@[simp] theorem State.withEnc_res (s : State) (e : EncoderUnit) : (s.withEnc e).res = s.res := rfl
@[simp] theorem State.withEnc_dec (s : State) (e : EncoderUnit) : (s.withEnc e).dec = s.dec := rfl
@[simp] theorem State.withEnc_prs (s : State) (e : EncoderUnit) : (s.withEnc e).prs = s.prs := rfl
@[simp] theorem State.withEnc_enc (s : State) (e : EncoderUnit) : (s.withEnc e).enc = e := rfl
@[simp] theorem State.withEnc_seq (s : State) (e : EncoderUnit) : (s.withEnc e).seq = s.seq := rfl
@[simp] theorem State.withEnc_cfg (s : State) (e : EncoderUnit) : (s.withEnc e).cfg = s.cfg := rfl
@[simp] theorem State.withEnc_port (s : State) (e : EncoderUnit) : (s.withEnc e).port = s.port := rfl
@[simp] theorem State.withEnc_answer (s : State) (e : EncoderUnit) : (s.withEnc e).answer = s.answer := rfl

/-! ### withSeq -/

@[simp] theorem State.withSeq_arg (s : State) (q : SequencerUnit) : (s.withSeq q).arg = s.arg := rfl
@[simp] theorem State.withSeq_res (s : State) (q : SequencerUnit) : (s.withSeq q).res = s.res := rfl
@[simp] theorem State.withSeq_dec (s : State) (q : SequencerUnit) : (s.withSeq q).dec = s.dec := rfl
@[simp] theorem State.withSeq_prs (s : State) (q : SequencerUnit) : (s.withSeq q).prs = s.prs := rfl
@[simp] theorem State.withSeq_enc (s : State) (q : SequencerUnit) : (s.withSeq q).enc = s.enc := rfl
@[simp] theorem State.withSeq_seq (s : State) (q : SequencerUnit) : (s.withSeq q).seq = q := rfl
@[simp] theorem State.withSeq_cfg (s : State) (q : SequencerUnit) : (s.withSeq q).cfg = s.cfg := rfl
@[simp] theorem State.withSeq_port (s : State) (q : SequencerUnit) : (s.withSeq q).port = s.port := rfl
@[simp] theorem State.withSeq_answer (s : State) (q : SequencerUnit) : (s.withSeq q).answer = s.answer := rfl

/-! ### withAnswer -/

@[simp] theorem State.withAnswer_arg (s : State) (v : Option HostValue) : (s.withAnswer v).arg = s.arg := rfl
@[simp] theorem State.withAnswer_res (s : State) (v : Option HostValue) : (s.withAnswer v).res = s.res := rfl
@[simp] theorem State.withAnswer_dec (s : State) (v : Option HostValue) : (s.withAnswer v).dec = s.dec := rfl
@[simp] theorem State.withAnswer_prs (s : State) (v : Option HostValue) : (s.withAnswer v).prs = s.prs := rfl
@[simp] theorem State.withAnswer_enc (s : State) (v : Option HostValue) : (s.withAnswer v).enc = s.enc := rfl
@[simp] theorem State.withAnswer_seq (s : State) (v : Option HostValue) : (s.withAnswer v).seq = s.seq := rfl
@[simp] theorem State.withAnswer_cfg (s : State) (v : Option HostValue) : (s.withAnswer v).cfg = s.cfg := rfl
@[simp] theorem State.withAnswer_port (s : State) (v : Option HostValue) : (s.withAnswer v).port = s.port := rfl
@[simp] theorem State.withAnswer_answer (s : State) (v : Option HostValue) : (s.withAnswer v).answer = v := rfl

/-! ### withPkt -/

@[simp] theorem State.withPkt_arg (s : State) (p : Packet) : (s.withPkt p).arg = s.arg := rfl
@[simp] theorem State.withPkt_res (s : State) (p : Packet) : (s.withPkt p).res = s.res := rfl
@[simp] theorem State.withPkt_dec (s : State) (p : Packet) : (s.withPkt p).dec = s.dec := rfl
@[simp] theorem State.withPkt_prs (s : State) (p : Packet) : (s.withPkt p).prs = { s.prs with pkt := p } := rfl
@[simp] theorem State.withPkt_enc (s : State) (p : Packet) : (s.withPkt p).enc = s.enc := rfl
@[simp] theorem State.withPkt_seq (s : State) (p : Packet) : (s.withPkt p).seq = s.seq := rfl
@[simp] theorem State.withPkt_cfg (s : State) (p : Packet) : (s.withPkt p).cfg = s.cfg := rfl
@[simp] theorem State.withPkt_port (s : State) (p : Packet) : (s.withPkt p).port = s.port := rfl
@[simp] theorem State.withPkt_answer (s : State) (p : Packet) : (s.withPkt p).answer = s.answer := rfl

/-! ### loadPin -/

@[simp] theorem State.loadPin_arg (s : State) (pts : List Point) : (s.loadPin pts).arg = s.arg := rfl
@[simp] theorem State.loadPin_res (s : State) (pts : List Point) : (s.loadPin pts).res = s.res := rfl
@[simp] theorem State.loadPin_dec (s : State) (pts : List Point) : (s.loadPin pts).dec = s.dec := rfl
@[simp] theorem State.loadPin_prs (s : State) (pts : List Point) : (s.loadPin pts).prs = s.prs := rfl
@[simp] theorem State.loadPin_enc (s : State) (pts : List Point) : (s.loadPin pts).enc = { s.enc with pin := pts.map toWire } := rfl
@[simp] theorem State.loadPin_seq (s : State) (pts : List Point) : (s.loadPin pts).seq = s.seq := rfl
@[simp] theorem State.loadPin_cfg (s : State) (pts : List Point) : (s.loadPin pts).cfg = s.cfg := rfl
@[simp] theorem State.loadPin_port (s : State) (pts : List Point) : (s.loadPin pts).port = s.port := rfl
@[simp] theorem State.loadPin_answer (s : State) (pts : List Point) : (s.loadPin pts).answer = s.answer := rfl

/-! ### present -/

@[simp] theorem State.present_arg (s : State) (h : HostStep) : (s.present h).arg = s.arg := rfl
@[simp] theorem State.present_res (s : State) (h : HostStep) : (s.present h).res = s.res := rfl
@[simp] theorem State.present_dec (s : State) (h : HostStep) : (s.present h).dec = s.dec := rfl
@[simp] theorem State.present_prs (s : State) (h : HostStep) : (s.present h).prs = s.prs := rfl
@[simp] theorem State.present_enc (s : State) (h : HostStep) : (s.present h).enc = s.enc := rfl
@[simp] theorem State.present_seq (s : State) (h : HostStep) : (s.present h).seq = s.seq := rfl
@[simp] theorem State.present_cfg (s : State) (h : HostStep) : (s.present h).cfg = s.cfg := rfl
@[simp] theorem State.present_port (s : State) (h : HostStep) : (s.present h).port = h :: s.port := rfl
@[simp] theorem State.present_answer (s : State) (h : HostStep) : (s.present h).answer = s.answer := rfl

end Sys2Proof.Machine
end

