-- ==== Sys2Proof/Laws/Ops.lean ====
section
/-!
SUPPORT. One lemma for each shared operation: what capacities admit, what `emit` appends, what a palette load leaves,
what a 32-bit register holds.
-/

namespace Sys2Proof.Machine

/-! ### Capacities -/

@[simp] theorem admits_none (n : Nat) : Cap.admits none n = true := rfl

theorem admits_mono {c : Cap} {m n : Nat} (h : c.admits n = true) (hmn : m ≤ n) : c.admits m = true := by
  cases c with
  | none => rfl
  | some k =>
    simp only [Cap.admits, decide_eq_true_eq] at h ⊢
    omega

@[simp] theorem admits_zero (c : Cap) : c.admits 0 = true := by
  cases c <;> simp [Cap.admits]

/-! ### Host reads -/

/-- A host read changes the host's answer alone, to what the place holds (rules R71, R72). -/
theorem hostRead_eq (p : ReadPlace) (s : State) :
    hostRead p s = .next { s with answer := readPlace s p } := rfl

/-- What a host read answers does not depend on the port, nor on an earlier answer. -/
theorem readPlace_congr (p : ReadPlace) (s : State) (port : List HostStep) (v : Option HostValue) :
    readPlace { s with port := port, answer := v } p = readPlace s p := by
  cases p <;> rfl

/-! ### Registers -/

theorem toReg32_of_lt {site : Narrowed} {n : Nat} (h : n < 4294967296) : toReg32 site n = BitVec.ofNat 32 n := by
  simp [toReg32, h]

/-- Either the number fits the register and is in it, or it does not fit. -/
theorem toReg32_cases (site : Narrowed) (n : Nat) :
    (n < 4294967296 ∧ (toReg32 site n).toNat = n) ∨ 4294967296 ≤ n := by
  by_cases h : n < 4294967296
  · left
    refine ⟨h, ?_⟩
    rw [toReg32_of_lt h, BitVec.toNat_ofNat, Nat.mod_eq_of_lt h]
  · exact .inr (by omega)

@[simp] theorem toReg32_zero (site : Narrowed) : toReg32 site 0 = 0 := rfl

theorem clamp_bounds {v lo hi : Nat} (h : lo ≤ hi) : lo ≤ clamp v lo hi ∧ clamp v lo hi ≤ hi := by
  simp only [clamp]; omega

/-! ### Transmit stream -/

@[simp] theorem emit_txq (e : EncoderUnit) (d : List Byte) : (e.emit d).txq = e.txq ++ [d] := rfl
@[simp] theorem emit_ndgram (e : EncoderUnit) (d : List Byte) : (e.emit d).ndgram = e.ndgram + 1 := rfl

/-- `emitAll` appends the datagrams in order, counts them modulo 2^32, and changes nothing else. -/
theorem emitAll_eq (e : EncoderUnit) (ds : List (List Byte)) :
    e.emitAll ds = { e with txq := e.txq ++ ds, ndgram := e.ndgram + BitVec.ofNat 32 ds.length } := by
  induction ds generalizing e with
  | nil => simp [EncoderUnit.emitAll]
  | cons d ds ih =>
    rw [EncoderUnit.emitAll, ih]
    simp only [EncoderUnit.emit, List.append_assoc, List.singleton_append, List.length_cons, BitVec.add_assoc]
    congr 2
    rw [Nat.add_comm ds.length 1, BitVec.ofNat_add]
    rfl

/-! ### Palette -/

/-- A palette load from index `j` on: entry `i` takes record `i - j` where there is one, and keeps its value elsewhere
(rule R133). -/
theorem palLoad_getElem (cs : List Rgb) (j : Nat) (pal : Vector Rgb 256) (i : Nat) (hi : i < 256) :
    (palLoad j cs pal)[i] = if j ≤ i then cs.getD (i - j) pal[i] else pal[i] := by
  induction cs generalizing j pal with
  | nil => simp [palLoad]
  | cons c cs ih =>
    rw [palLoad, ih]
    by_cases hji : j = i
    · subst hji
      simp [hi]
    · by_cases hlt : j ≤ i
      · have h1 : j + 1 ≤ i := by omega
        have h2 : i - j = (i - (j + 1)) + 1 := by omega
        rw [if_pos h1, if_pos hlt, h2]
        split
        · simp [Vector.getElem_set_ne, hji]
        · simp
      · have h1 : ¬ j + 1 ≤ i := by omega
        rw [if_neg h1, if_neg hlt]
        split
        · rw [Vector.getElem_set_ne]
          exact hji
        · rfl

/-! ### Frame store -/

@[simp] theorem pointsStored_nil : pointsStored [] = 0 := rfl

@[simp] theorem pointsStored_append (fs : List Frame) (f : Frame) :
    pointsStored (fs ++ [f]) = pointsStored fs + f.points.length := by
  simp [pointsStored]

end Sys2Proof.Machine
end

