-- ==== Sys2Proof/Laws/Framer.lean ====
section
/-!
SUPPORT. Point records and chunks (43_iwp_encode.md rules R196, R199).
-/

namespace Sys2Proof.Machine

@[simp] theorem encodePoint_length (q : WirePoint) : (encodePoint q).length = 11 := rfl

theorem encodePoint_head (q : WirePoint) : (encodePoint q).head? = some 0x03 := rfl

@[simp] theorem periodDatagram_head (v : Word) : (periodDatagram v).head? = some 0x01 := rfl

@[simp] theorem chunk_length (recs : List (List Byte)) (per : Nat) :
    (chunk recs per).length = ceilDiv recs.length per := by
  simp [chunk]

/-- Chunk `j` holds records `j*per` to `min((j+1)*per, m) - 1` (rule R199). -/
theorem chunk_getElem (recs : List (List Byte)) (per j : Nat) (hj : j < ceilDiv recs.length per) :
    (chunk recs per)[j]? = some ((recs.drop (j * per)).take per).flatten := by
  simp [chunk, hj]

/-- The number of whole chunks before the last one. -/
theorem mul_lt_of_lt_ceilDiv {m per j : Nat} (hj : j < ceilDiv m per) : j * per < m := by
  unfold ceilDiv at hj
  rcases Nat.eq_zero_or_pos per with h0 | hpos
  · subst h0; simp at hj
  · have h := (Nat.le_div_iff_mul_le hpos).mp (Nat.succ_le_of_lt hj)
    rw [Nat.succ_mul] at h
    omega

theorem le_mul_ceilDiv (m per : Nat) (hper : 1 ≤ per) : m ≤ ceilDiv m per * per := by
  unfold ceilDiv
  have h := Nat.div_add_mod (m + per - 1) per
  have h2 := Nat.mod_lt (m + per - 1) (show per > 0 by omega)
  rw [Nat.mul_comm] at h
  omega

/-- The first `j` chunks are the first `j*per` records. -/
theorem chunk_range_flatten (recs : List (List Byte)) (per j : Nat) :
    ((List.range j).map fun i => ((recs.drop (i * per)).take per).flatten).flatten = (recs.take (j * per)).flatten := by
  induction j with
  | zero => simp
  | succ j ih =>
    rw [List.range_succ, List.map_append, List.flatten_append, ih]
    simp only [List.map_cons, List.map_nil, List.flatten_cons, List.flatten_nil, List.append_nil]
    rw [← List.flatten_append, Nat.succ_mul, List.take_add]

/-- Concatenating the chunks gives every record in order (rule R209). -/
theorem chunk_flatten (recs : List (List Byte)) (per : Nat) (hper : 1 ≤ per) :
    (chunk recs per).flatten = recs.flatten := by
  rw [chunk, chunk_range_flatten, List.take_of_length_le (le_mul_ceilDiv _ _ hper)]

end Sys2Proof.Machine
end

