-- ==== Sys2Proof/Laws/IldaDecoder.lean ====
section
/-!
SUPPORT. What one section does to the decoder's state, and that the loop of DECODE_ILDA always reaches a stop inside
IBUF.
-/

namespace Sys2Proof.Machine

/-- What a point section can do (rules R126, R127, R129): store one frame and pass on, or stop for capacity. -/
theorem pointSection_cases (d : DecoderUnit) (c : Config) (h : Header) (rs : Nat) (pts : List Point) :
    (d.frameRoom c pts.length = true ∧ d.pointSection c h rs pts =
      { d with fstore := d.fstore ++ [⟨h.fmt, h, pts⟩], off := d.off + 32 + pts.length * rs,
               stop := if pts.length < h.count.toNat then Status.decTruncated else d.stop }) ∨
    (d.frameRoom c pts.length = false ∧ d.pointSection c h rs pts = { d with stop := Status.decCapacity }) := by
  cases hr : d.frameRoom c pts.length
  · right; simp [DecoderUnit.pointSection, hr, DecoderUnit.stopWith]
  · left; simp [DecoderUnit.pointSection, hr, DecoderUnit.pass, DecoderUnit.addFrame, hdrBytes]

/-- A palette section, written out (rule R133). -/
theorem fmt2_eq (d : DecoderUnit) (h : Header) (recs : List Rgb) :
    d.fmt2 h recs = { d with pal := palLoad 0 recs d.pal, off := d.off + 32 + recs.length * 3,
                             stop := if recs.length < h.count.toNat then Status.decTruncated else d.stop } := rfl

/-- The bytes of a decoded section lie in the bytes it was decoded from (rule R124). -/
theorem section_bytes (bs : List Byte) (hlen : 32 ≤ bs.length) (h : Header) (rs : Nat) :
    32 + recordsPresent h rs (bs.drop 32) * rs ≤ bs.length := by
  have := (recordsPresent_le h rs (bs.drop 32)).2
  simp only [List.length_drop] at this
  omega

/-- One section of the stream keeps IBUF and DEC_NFRAMES, keeps the cursor inside the buffer, and either leaves no stop
and moves the cursor on by at least 32 bytes, or stops with DEC_TRUNCATED or DEC_CAPACITY. -/
theorem runSec_progress (c : Config) (d : DecoderUnit) (x : Sec) (hx : decodeSec (d.ibuf.drop d.off) = .ok x)
    (hoff : d.off ≤ d.ibuf.length) (hstop : d.stop = 0x00) :
    (d.runSec c x).ibuf = d.ibuf ∧ (d.runSec c x).nframes = d.nframes ∧ (d.runSec c x).off ≤ d.ibuf.length ∧
      (((d.runSec c x).stop = 0x00 ∧ d.off + 32 ≤ (d.runSec c x).off) ∨ (d.runSec c x).stop = Status.decTruncated ∨
        (d.runSec c x).stop = Status.decCapacity) := by
  obtain ⟨hlen, -, hcases⟩ := decodeSec_ok hx
  have hb := section_bytes _ hlen (readHeader (d.ibuf.drop d.off))
  simp only [List.length_drop] at hlen hb
  have point : ∀ (h : Header) (rs k : Nat) (pts : List Point), pts.length = k → 32 + k * rs ≤ d.ibuf.length - d.off →
      (d.pointSection c h rs pts).ibuf = d.ibuf ∧ (d.pointSection c h rs pts).nframes = d.nframes ∧
      (d.pointSection c h rs pts).off ≤ d.ibuf.length ∧
      (((d.pointSection c h rs pts).stop = 0x00 ∧ d.off + 32 ≤ (d.pointSection c h rs pts).off) ∨
        (d.pointSection c h rs pts).stop = Status.decTruncated ∨
        (d.pointSection c h rs pts).stop = Status.decCapacity) := by
    intro h rs k pts hk hle
    subst hk
    rcases pointSection_cases d c h rs pts with ⟨-, heq⟩ | ⟨-, heq⟩
    · rw [heq]
      refine ⟨rfl, rfl, ?_, ?_⟩
      · show d.off + 32 + pts.length * rs ≤ d.ibuf.length; omega
      · show ((if pts.length < h.count.toNat then Status.decTruncated else d.stop) = 0x00 ∧ _) ∨ _ ∨ _
        split
        · exact .inr (.inl (by simp [*]))
        · exact .inl ⟨hstop, by show d.off + 32 ≤ d.off + 32 + pts.length * rs; omega⟩
    · rw [heq]
      exact ⟨rfl, rfl, hoff, .inr (.inr rfl)⟩
  rcases hcases with ⟨rfl, -⟩ | ⟨rfl, -⟩ | ⟨rfl, -⟩ | ⟨rfl, -⟩ | ⟨rfl, -⟩
  · exact point _ 8 _ _ (by simp) (hb 8)
  · exact point _ 6 _ _ (by simp) (hb 6)
  · rw [DecoderUnit.runSec, fmt2_eq]
    refine ⟨rfl, rfl, ?_, ?_⟩
    · simp only [readRecords_length]
      have := hb 3
      omega
    · dsimp only
      split
      · exact .inr (.inl rfl)
      · exact .inl ⟨hstop, by omega⟩
  · exact point _ 10 _ _ (by simp) (hb 10)
  · exact point _ 8 _ _ (by simp) (hb 8)

/-- An induction over the loop of DECODE_ILDA: what every section keeps and every stop gives holds of the whole loop,
given enough fuel for the bytes that remain. -/
theorem decodeLoop_induction (c : Config) (P Q : DecoderUnit → Prop)
    (hsec : ∀ d x, P d → d.off ≤ d.ibuf.length → d.stop = 0x00 → decodeSec (d.ibuf.drop d.off) = .ok x →
      ((d.runSec c x).stop = 0x00 → P (d.runSec c x)) ∧ ((d.runSec c x).stop ≠ 0x00 → Q (d.runSec c x)))
    (hend : ∀ d e, P d → d.off ≤ d.ibuf.length → d.stop = 0x00 → decodeSec (d.ibuf.drop d.off) = .error e →
      Q (d.stopWith (Status.ofSecReject e))) :
    ∀ (fuel : Nat) (d : DecoderUnit), P d → d.off ≤ d.ibuf.length → d.stop = 0x00 → d.ibuf.length - d.off < fuel →
      Q (decodeLoop c fuel d) := by
  intro fuel
  induction fuel with
  | zero => intro d _ _ _ h; omega
  | succ fuel ih =>
    intro d hP hoff hstop hfuel
    unfold decodeLoop
    cases hx : decodeSec (d.ibuf.drop d.off) with
    | error e => exact hend d e hP hoff hstop hx
    | ok x =>
      obtain ⟨hib, -, hoff', hcase⟩ := runSec_progress c d x hx hoff hstop
      obtain ⟨h1, h2⟩ := hsec d x hP hoff hstop hx
      dsimp only
      by_cases hs : (d.runSec c x).stop = 0x00
      · rw [if_pos hs]
        have hmove : d.off + 32 ≤ (d.runSec c x).off := by
          rcases hcase with ⟨-, h⟩ | h | h
          · exact h
          · rw [hs] at h; exact absurd h (by decide)
          · rw [hs] at h; exact absurd h (by decide)
        exact ih _ (h1 hs) (by rw [hib]; exact hoff') hs (by rw [hib]; omega)
      · rw [if_neg hs]; exact h2 hs

end Sys2Proof.Machine
end

