-- ==== Sys2Proof/Laws/IwpParser.lean ====
section
/-!
SUPPORT. What one IWP command does to a packet, and that the loop of PARSE_IWP always reaches a stop inside RBUF.
-/

namespace Sys2Proof.Machine

@[simp] theorem runCmd_cmds (p : Packet) (c : RawCmd) : (p.runCmd c).cmds = p.cmds ++ [c] := by
  cases c <;> rfl

@[simp] theorem runCmd_endOff (p : Packet) (c : RawCmd) : (p.runCmd c).endOff = p.endOff + c.length := by
  cases c <;> rfl

@[simp] theorem runCmd_len (p : Packet) (c : RawCmd) : (p.runCmd c).len = p.len := by
  cases c <;> rfl

@[simp] theorem runCmd_time (p : Packet) (c : RawCmd) : (p.runCmd c).time = p.time := by
  cases c <;> rfl

@[simp] theorem runCmd_stop (p : Packet) (c : RawCmd) : (p.runCmd c).stop = p.stop := by
  cases c <;> rfl

/-- A decoded command lies in the bytes it was decoded from. -/
theorem decodeCmd_length {bs : List Byte} {c : RawCmd} (h : decodeCmd bs = .ok c) : c.length ≤ bs.length := by
  unfold decodeCmd at h
  split at h
  · cases h
  · dsimp only at h
    unfold cmdlen at h
    split at h
    · cases h
    · rename_i n hc
      split at h
      · cases h
      · rename_i hlen
        split at hc <;> simp_all <;> (subst h; simp only [RawCmd.length]; omega)

/-- An induction over the loop of PARSE_IWP: what every command keeps and every stop gives holds of the whole loop,
given enough fuel for the bytes that remain. -/
theorem parseLoop_induction (buf : List Byte) (P Q : Packet → Prop)
    (hcmd : ∀ p c, P p → p.endOff ≤ buf.length → decodeCmd (buf.drop p.endOff) = .ok c → P (p.runCmd c))
    (hend : ∀ p e, P p → p.endOff ≤ buf.length → decodeCmd (buf.drop p.endOff) = .error e →
      Q { p with stop := Status.ofCmdReject e }) :
    ∀ (fuel : Nat) (p : Packet), P p → p.endOff ≤ buf.length → buf.length - p.endOff < fuel →
      Q (parseLoop buf fuel p) := by
  intro fuel
  induction fuel with
  | zero => intro p _ _ h; omega
  | succ fuel ih =>
    intro p hP hoff hfuel
    unfold parseLoop
    cases hx : decodeCmd (buf.drop p.endOff) with
    | error e => exact hend p e hP hoff hx
    | ok c =>
      have hl := decodeCmd_length hx
      have hp := c.length_pos
      simp only [List.length_drop] at hl
      refine ih _ (hcmd p c hP hoff hx) ?_ ?_ <;> simp only [runCmd_endOff] <;> omega

end Sys2Proof.Machine
end

