-- ==== Sys2Proof/Laws/Memory.lean ====
section
/-!
SUPPORT. Every operation that writes a memory keeps the sizes of 20_memory.md rule R60, and the reset state has them.
-/

namespace Sys2Proof.Machine

theorem reset_memory_wf : Memory.wf State.reset = true := by decide

/-- The sizes one by one. -/
theorem memory_wf_iff (s : State) : Memory.wf s = true ↔
    s.cfg.ibufSize.admits s.dec.ibuf.length = true ∧ s.cfg.rbufSize.admits s.prs.rbuf.length = true ∧
      s.cfg.pinSize.admits s.enc.pin.length = true ∧ s.cfg.maxFrames.admits s.dec.fstore.length = true ∧
      s.cfg.maxPoints.admits (pointsStored s.dec.fstore) = true ∧ s.cfg.txqCap.admits s.enc.txq.length = true := by
  simp [Memory.wf, and_assoc]

theorem writeIbuf_memory_wf {bytes : List Byte} {s t : State} (hs : Memory.wf s = true)
    (h : writeIbuf bytes s = .next t) : Memory.wf t = true := by
  unfold writeIbuf at h
  split at h
  · injection h with h; subst h
    simp_all [memory_wf_iff]
  · cases h

theorem writeRbuf_memory_wf {bytes : List Byte} {s t : State} (hs : Memory.wf s = true)
    (h : writeRbuf bytes s = .next t) : Memory.wf t = true := by
  unfold writeRbuf at h
  split at h
  · injection h with h; subst h
    simp_all [memory_wf_iff]
  · cases h

theorem writePin_memory_wf {pts : List WirePoint} {s t : State} (hs : Memory.wf s = true)
    (h : writePin pts s = .next t) : Memory.wf t = true := by
  unfold writePin at h
  split at h
  · injection h with h; subst h
    simp_all [memory_wf_iff]
  · cases h

theorem hostRead_memory_wf (p : ReadPlace) {s t : State} (hs : Memory.wf s = true)
    (h : hostRead p s = .next t) : Memory.wf t = true := by
  injection h with h; subst h
  simp_all [memory_wf_iff]

theorem loadPin_memory_wf {pts : List Point} {s : State} (hs : Memory.wf s = true)
    (h : s.cfg.pinSize.admits pts.length = true) : Memory.wf (s.loadPin pts) = true := by
  simp_all [memory_wf_iff]

theorem emitAll_memory_wf {ds : List (List Byte)} {s : State} (hs : Memory.wf s = true)
    (h : s.txRoom ds.length = true) : Memory.wf (s.withEnc (s.enc.emitAll ds)) = true := by
  simp_all [memory_wf_iff, emitAll_eq, State.txRoom]

theorem pointSection_memory_wf {s : State} (hs : Memory.wf s = true) (h : Header) (rs : Nat) (pts : List Point) :
    Memory.wf (s.withDec (s.dec.pointSection s.cfg h rs pts)) = true := by
  rcases pointSection_cases s.dec s.cfg h rs pts with ⟨hr, e⟩ | ⟨-, e⟩
  · simp_all [memory_wf_iff, DecoderUnit.frameRoom]
  · simp_all [memory_wf_iff]

theorem fmt2_memory_wf {s : State} (hs : Memory.wf s = true) (h : Header) (recs : List Rgb) :
    Memory.wf (s.withDec (s.dec.fmt2 h recs)) = true := by
  simp_all [memory_wf_iff, fmt2_eq]

end Sys2Proof.Machine
end

