-- ==== Sys2Proof/Laws/PerInstr.lean ====
section
/-!
SUPPORT. Statements made per instruction. EncodedLength: how many bytes the encoding of an instruction has
(30_encoding.md rule R85): 32 and the record size times the number of records for a section, the command length for an
IWP command, one opcode byte for a host command.
-/

namespace Sys2Proof.Laws.EncodedLength

/-- The length rule R85 gives an instruction. -/
def expected (i : Instr) : Nat :=
  match i with
  | .ildaFmt0 _ recs => 32 + recs.length * 8
  | .ildaFmt1 _ recs => 32 + recs.length * 6
  | .ildaFmt2 _ recs => 32 + recs.length * 3
  | .ildaFmt4 _ recs => 32 + recs.length * 10
  | .ildaFmt5 _ recs => 32 + recs.length * 8
  | .iwpOff => 1
  | .iwpPeriod _ => 5
  | .iwpPt8 _ _ _ _ _ => 8
  | .iwpPt16 _ _ _ _ _ => 11
  | .nop => 1
  | .decodeIlda => 1
  | .xfI2w => 1
  | .xfW2i => 1
  | .xfW2s => 1
  | .xfExp => 1
  | .xfNar => 1
  | .xfWcol => 1
  | .xfFrame => 1
  | .xfCurrent => 1
  | .parseIwp _ => 1
  | .txOpen => 1
  | .txSetRate => 1
  | .txPack => 1
  | .txClose => 1
  | .txSetMaxdg => 1
  | .seqLoad => 1
  | .seqPlay _ => 1
  | .seqPause => 1
  | .seqStop => 1
  | .seqUpdate _ => 1
  | .seqNext => 1
  | .seqPrev => 1
  | .seqSetFps => 1
  | .seqSetSpeed => 1
  | .seqSetLoop => 1
  | .seqSnapshot => 1
  | .rdReg => 1

/-- The encoding has the length of rule R85. -/
def Statement (i : Instr) : Prop := (encode i).bytes.length = expected i

theorem ildaFmt0 (hdr : Header) (recs : List Indexed3) : Statement (.ildaFmt0 hdr recs) := by
  simp [Statement, expected, encode, encodeSec, flatMap_length_const encodeIndexed3 8 encodeIndexed3_length, -List.length_flatMap]
theorem ildaFmt1 (hdr : Header) (recs : List Indexed2) : Statement (.ildaFmt1 hdr recs) := by
  simp [Statement, expected, encode, encodeSec, flatMap_length_const encodeIndexed2 6 encodeIndexed2_length, -List.length_flatMap]
theorem ildaFmt2 (hdr : Header) (recs : List Rgb) : Statement (.ildaFmt2 hdr recs) := by
  simp [Statement, expected, encode, encodeSec, flatMap_length_const encodeRgb 3 encodeRgb_length, -List.length_flatMap]
theorem ildaFmt4 (hdr : Header) (recs : List True3) : Statement (.ildaFmt4 hdr recs) := by
  simp [Statement, expected, encode, encodeSec, flatMap_length_const encodeTrue3 10 encodeTrue3_length, -List.length_flatMap]
theorem ildaFmt5 (hdr : Header) (recs : List True2) : Statement (.ildaFmt5 hdr recs) := by
  simp [Statement, expected, encode, encodeSec, flatMap_length_const encodeTrue2 8 encodeTrue2_length, -List.length_flatMap]
theorem iwpOff : Statement .iwpOff := rfl
theorem iwpPeriod (v : Word) : Statement (.iwpPeriod v) := rfl
theorem iwpPt8 (x y : Half) (r g b : Byte) : Statement (.iwpPt8 x y r g b) := rfl
theorem iwpPt16 (x y r g b : Half) : Statement (.iwpPt16 x y r g b) := rfl
theorem nop : Statement .nop := rfl
theorem decodeIlda : Statement .decodeIlda := rfl
theorem xfI2w : Statement .xfI2w := rfl
theorem xfW2i : Statement .xfW2i := rfl
theorem xfW2s : Statement .xfW2s := rfl
theorem xfExp : Statement .xfExp := rfl
theorem xfNar : Statement .xfNar := rfl
theorem xfWcol : Statement .xfWcol := rfl
theorem xfFrame : Statement .xfFrame := rfl
theorem xfCurrent : Statement .xfCurrent := rfl
theorem parseIwp (now : Time) : Statement (.parseIwp now) := rfl
theorem txOpen : Statement .txOpen := rfl
theorem txSetRate : Statement .txSetRate := rfl
theorem txPack : Statement .txPack := rfl
theorem txClose : Statement .txClose := rfl
theorem txSetMaxdg : Statement .txSetMaxdg := rfl
theorem seqLoad : Statement .seqLoad := rfl
theorem seqPlay (now : Time) : Statement (.seqPlay now) := rfl
theorem seqPause : Statement .seqPause := rfl
theorem seqStop : Statement .seqStop := rfl
theorem seqUpdate (now : Time) : Statement (.seqUpdate now) := rfl
theorem seqNext : Statement .seqNext := rfl
theorem seqPrev : Statement .seqPrev := rfl
theorem seqSetFps : Statement .seqSetFps := rfl
theorem seqSetSpeed : Statement .seqSetSpeed := rfl
theorem seqSetLoop : Statement .seqSetLoop := rfl
theorem seqSnapshot : Statement .seqSnapshot := rfl
theorem rdReg : Statement .rdReg := rfl

end Sys2Proof.Laws.EncodedLength
end

