-- ==== Sys2Proof/Laws/Sequencer.lean ====
section
/-!
SUPPORT. What the shared operations of the sequencer can do.
-/

namespace Sys2Proof.Machine

/-- `adv()`: the next frame, a wrap, or a clamp (rule R230). -/
theorem adv_cases (q : SequencerUnit) :
    (q.index.toNat + 1 < q.n.toNat ∧ q.adv = { q with index := q.index + 1 }) ∨
    (q.n.toNat ≤ q.index.toNat + 1 ∧ q.loop = true ∧ q.adv = { q with index := 0 }) ∨
    (q.n.toNat ≤ q.index.toNat + 1 ∧ q.loop = false ∧
      q.adv = { q with index := q.n - 1, state := if q.state = .playing then .paused else q.state }) := by
  unfold SequencerUnit.adv
  by_cases h : q.index.toNat + 1 < q.n.toNat
  · simp [h]
  · cases hl : q.loop
    · right; right; exact ⟨by omega, rfl, by simp [h]⟩
    · right; left; exact ⟨by omega, rfl, by simp [h]⟩

/-- `elapsed(now)` is the truncated difference (rule R231). -/
theorem elapsed_eq (q : SequencerUnit) (now : Time) : q.elapsed now = now.toNat - q.last.toNat := by
  unfold SequencerUnit.elapsed
  split <;> omega

/-- SEQ_UPDATE advances exactly when playing, with a frame, and due (rule R232). -/
theorem advances_iff (q : SequencerUnit) (now : Time) :
    q.advances now = true ↔ q.state = .playing ∧ 1 ≤ q.n.toNat ∧
      dueThreshold ≤ (now.toNat - q.last.toNat) * q.fps.toNat * q.speed.toNat := by
  simp [SequencerUnit.advances, SequencerUnit.due, elapsed_eq, and_assoc]

/-- The index after `adv` stays below SEQ_N (rule R40). -/
theorem adv_index_lt (q : SequencerUnit) (hn : 1 ≤ q.n.toNat) : q.adv.index.toNat < q.n.toNat := by
  have hlt := q.n.isLt
  rcases adv_cases q with ⟨h, e⟩ | ⟨_, _, e⟩ | ⟨_, _, e⟩
  · rw [e]; dsimp only
    rw [BitVec.toNat_add, Nat.mod_eq_of_lt (by simp; omega)]
    simpa using h
  · rw [e]; simp; omega
  · rw [e]; dsimp only
    rw [BitVec.toNat_sub]; simp; omega

end Sys2Proof.Machine
end

