-- ==== Sys2Proof/Laws/Transform.lean ====
section
/-!
SUPPORT. The transformer's functions on bit patterns (41_transform.md rules R151, R155, R157, R159).
-/

namespace Sys2Proof.Machine

/-- Recentring adds 0x8000 to the pattern (rule R151). -/
theorem ildaToWire_fst (x : Half) (y : Int) : (ildaToWire x.toInt y).1 = x + 0x8000#16 := by
  apply BitVec.eq_of_toNat_eq
  simp only [ildaToWire, BitVec.toNat_ofInt, BitVec.toNat_add, BitVec.toInt_eq_toNat_cond]
  have := x.isLt
  split <;> simp <;> omega

/-- Flipping subtracts the pattern from 0x8000 (rule R151). -/
theorem ildaToWire_snd (x : Int) (y : Half) : (ildaToWire x y.toInt).2 = 0x8000#16 - y := by
  apply BitVec.eq_of_toNat_eq
  simp only [ildaToWire, BitVec.toNat_ofInt, BitVec.toNat_sub, BitVec.toInt_eq_toNat_cond]
  have := y.isLt
  split <;> simp <;> omega

theorem extractLsb'_zero_toNat {n w : Nat} (v : BitVec n) : (v.extractLsb' 0 w).toNat = v.toNat % 2 ^ w := by
  simp [BitVec.extractLsb'_toNat]

@[simp] theorem lowHalf_toNat (v : Word) : (lowHalf v).toNat = v.toNat % 65536 := extractLsb'_zero_toNat v

@[simp] theorem lowByte_toNat (v : Word) : (lowByte v).toNat = v.toNat % 256 := extractLsb'_zero_toNat v

@[simp] theorem zext32_toNat (v : Half) : (zext32 v).toNat = v.toNat := by
  have := v.isLt
  simp [zext32]; omega

@[simp] theorem lowHalf_zext32 (v : Half) : lowHalf (zext32 v) = v := by
  apply BitVec.eq_of_toNat_eq
  have := v.isLt
  simp; omega

/-- A 32-bit register below 2^16 is the zero extension of its low half. -/
theorem zext32_lowHalf {v : Word} (h : v.toNat < 65536) : zext32 (lowHalf v) = v := by
  apply BitVec.eq_of_toNat_eq
  simp; omega

end Sys2Proof.Machine
end

