-- ==== Sys2Proof/Tests/Slice0.lean ====
section
/-!
SUPPORT. Tests. Expected results are those of 95_test_vectors.md (vector ids E, V, P), or written by hand from the rule
named. Four parts: ill-formed terms that `wellFormed` refuses; words written out from the encodings; at most two
one-command tests for each instruction; and for every statement with hypotheses a witness that meets them.
-/

namespace Sys2Proof.Tests

open Sys2Proof.Machine Sys2Proof.Safety

set_option Elab.async false

/-! ### Helpers -/

/-- A view of the next state, none where there is none. -/
def view {α : Type} (o : Host.Outcome State Fault Refusal) (f : State → α) : Option α :=
  match o with
  | .next t => some (f t)
  | .fault _ => none
  | .refused _ => none

/-- A header with a format code, a count and zeros. -/
def hdr (fmt : Byte) (count : Half) : Header := ⟨fmt, Vector.replicate 8 0, Vector.replicate 8 0, count, 0, 0, 0⟩

/-- The bytes of a header with format code `fmt` and count `count < 256`, as in vector E3. -/
def hdrBytesOf (fmt count : Byte) : List Byte :=
  [0x49, 0x4C, 0x44, 0x41, 0, 0, 0, fmt, 0, 0, 0, 0, 0, 0, 0, 0, 0, 0, 0, 0, 0, 0, 0, 0, 0, count, 0, 0, 0, 0, 0, 0]

/-- Reset with ARG0..ARG3 written. -/
def args (a0 a1 a2 a3 : Word) : State := { State.reset with arg := ⟨a0, a1, a2, a3⟩ }

/-- Reset with IBUF written. -/
def withIbuf (bytes : List Byte) : State := { State.reset with dec := { State.reset.dec with ibuf := bytes } }

/-- Reset with RBUF written. -/
def withRbuf (bytes : List Byte) : State := { State.reset with prs := { State.reset.prs with rbuf := bytes } }

/-- Reset with TXQ_CAP, MAX_FRAMES and PIN_SIZE limited. -/
def limited (txq frames pin : Cap) : State :=
  State.resetWith { Config.default with txqCap := txq, maxFrames := frames, pinSize := pin }

/-- A session state of the encoder over `s`. -/
def session (s : State) (is_open : Bool) (maxdg : Half) (pin : List WirePoint) (txq : List (List Byte)) : State :=
  { s with enc := { s.enc with session := is_open, maxdg := maxdg, pin := pin, txq := txq } }

/-- A frame of the points given. -/
def frameOf (pts : List Point) : Frame := ⟨1, hdr 1 2, pts⟩

/-- A sequencer state over `s`, with three empty frames. -/
def playing3 (s : State) (p : PlayState) (index : Word) (loop : Bool) (last : Time) : State :=
  { s with seq := { s.seq with state := p, index := index, loop := loop, last := last, n := 3,
                               flist := [frameOf [], frameOf [], frameOf []] } }

/-- The two points of vector E3. -/
def e3Points : List Point := [⟨100, 0xFF9C, 0, 0x00, 0, 0, 255⟩, ⟨0xFFFF, 1, 0, 0x40, 255, 0, 0⟩]

/-- The image of vector E3. -/
def e3Image : List Byte :=
  hdrBytesOf 2 3 ++ [0xFF, 0x00, 0x00, 0x00, 0xFF, 0x00, 0x00, 0x00, 0xFF] ++
    hdrBytesOf 1 2 ++ [0x00, 0x64, 0xFF, 0x9C, 0x00, 0x02] ++ [0xFF, 0xFF, 0x00, 0x01, 0x40, 0x00]

/-- Reset with E3's frame loaded in the sequencer. -/
def e3Loaded (pin : Cap) : State :=
  let s := limited none none pin
  { s with seq := { s.seq with n := 1, flist := [frameOf e3Points] } }

/-! ### Ill-formed terms -/

theorem test_fmt0_needs_its_code : (Instr.ildaFmt0 (hdr 1 0) []).wellFormed = false := by decide
theorem test_fmt1_needs_its_code : (Instr.ildaFmt1 (hdr 0 0) []).wellFormed = false := by decide
theorem test_fmt2_needs_its_code : (Instr.ildaFmt2 (hdr 3 0) []).wellFormed = false := by decide
theorem test_fmt4_needs_its_code : (Instr.ildaFmt4 (hdr 5 0) []).wellFormed = false := by decide
theorem test_fmt5_needs_its_code : (Instr.ildaFmt5 (hdr 4 0) []).wellFormed = false := by decide
theorem test_fmt0_no_more_than_count : (Instr.ildaFmt0 (hdr 0 0) [⟨0, 0, 0, 0, 0⟩]).wellFormed = false := by decide
theorem test_fmt1_no_more_than_count : (Instr.ildaFmt1 (hdr 1 0) [⟨0, 0, 0, 0⟩]).wellFormed = false := by decide
theorem test_fmt2_no_more_than_count : (Instr.ildaFmt2 (hdr 2 0) [⟨0, 0, 0⟩]).wellFormed = false := by decide
theorem test_fmt4_no_more_than_count :
    (Instr.ildaFmt4 (hdr 4 0) [⟨0, 0, 0, 0, 0, 0, 0⟩]).wellFormed = false := by decide
theorem test_fmt5_no_more_than_count :
    (Instr.ildaFmt5 (hdr 5 0) [⟨0, 0, 0, 0, 0, 0⟩]).wellFormed = false := by decide
theorem test_truncated_section_is_well_formed : (Instr.ildaFmt2 (hdr 2 2) [⟨1, 2, 3⟩]).wellFormed = true := by decide

/-! ### Words from the encodings

Rules R86 and R91 to R95 for sections, R101 to R104 for commands, R110 for opcodes. -/

/-- A header with every field different (rule R86), the reserved bytes not zero (rule R88). -/
def fullHeader (fmt : Byte) : List Byte :=
  [0x49, 0x4C, 0x44, 0x41, 0x91, 0x92, 0x93, fmt, 0x41, 0x42, 0x43, 0x44, 0x45, 0x46, 0x47, 0x48,
   0x61, 0x62, 0x63, 0x64, 0x65, 0x66, 0x67, 0x20, 0x00, 0x01, 0x12, 0x34, 0x56, 0x78, 0x9A, 0x94]

/-- What that header holds. -/
def fullHdr (fmt : Byte) : Header where
  fmt := fmt
  name := #v[0x41, 0x42, 0x43, 0x44, 0x45, 0x46, 0x47, 0x48]
  company := #v[0x61, 0x62, 0x63, 0x64, 0x65, 0x66, 0x67, 0x20]
  count := 1
  findex := 0x1234
  total := 0x5678
  proj := 0x9A

theorem test_word_ildaFmt0 :
    decode ⟨.ildaSection, fullHeader 0 ++ [0x01, 0x02, 0x03, 0x04, 0x85, 0x06, 0x40, 0x08], 0⟩ =
      .ok (.ildaFmt0 (fullHdr 0) [⟨0x0102, 0x0304, 0x8506, 0x40, 0x08⟩]) := rfl
theorem test_word_ildaFmt1 :
    decode ⟨.ildaSection, fullHeader 1 ++ [0x01, 0x02, 0x83, 0x04, 0x40, 0x06], 0⟩ =
      .ok (.ildaFmt1 (fullHdr 1) [⟨0x0102, 0x8304, 0x40, 0x06⟩]) := rfl
theorem test_word_ildaFmt2 :
    decode ⟨.ildaSection, fullHeader 2 ++ [0x10, 0x20, 0x30], 0⟩ =
      .ok (.ildaFmt2 (fullHdr 2) [⟨0x10, 0x20, 0x30⟩]) := rfl
theorem test_word_ildaFmt4 :
    decode ⟨.ildaSection, fullHeader 4 ++ [0x01, 0x02, 0x03, 0x04, 0x05, 0x06, 0x40, 0x11, 0x22, 0x33], 0⟩ =
      .ok (.ildaFmt4 (fullHdr 4)
        [{ x := 0x0102, y := 0x0304, z := 0x0506, status := 0x40, b := 0x11, g := 0x22, r := 0x33 }]) := rfl
theorem test_word_ildaFmt5 :
    decode ⟨.ildaSection, fullHeader 5 ++ [0x01, 0x02, 0x03, 0x04, 0x40, 0x11, 0x22, 0x33], 0⟩ =
      .ok (.ildaFmt5 (fullHdr 5)
        [{ x := 0x0102, y := 0x0304, status := 0x40, b := 0x11, g := 0x22, r := 0x33 }]) := rfl

/-- Formats 3 and 6 are unsupported (rule R99), and the magic is case-sensitive (rule R87). -/
theorem test_word_no_section :
    decodeSec (hdrBytesOf 3 1) = .error (.unsupportedFormat 3) ∧
    decodeSec (hdrBytesOf 6 1) = .error (.unsupportedFormat 6) ∧
    decodeSec (0x69 :: (hdrBytesOf 0 0).drop 1) = .error .badMagic ∧
    decodeSec ((hdrBytesOf 0 0).take 31) = .error .shortHeader := ⟨rfl, rfl, rfl, rfl⟩

theorem test_word_iwpOff : decode ⟨.iwpCmd, [0x00], 0⟩ = .ok .iwpOff := rfl
theorem test_word_iwpPeriod : decode ⟨.iwpCmd, [0x01, 0x12, 0x34, 0x56, 0x78], 0⟩ = .ok (.iwpPeriod 0x12345678) := rfl
theorem test_word_iwpPt8 :
    decode ⟨.iwpCmd, [0x02, 0x01, 0x02, 0x83, 0x04, 0x05, 0x06, 0x07], 0⟩ =
      .ok (.iwpPt8 0x0102 0x8304 0x05 0x06 0x07) := rfl
theorem test_word_iwpPt16 :
    decode ⟨.iwpCmd, [0x03, 0x01, 0x02, 0x83, 0x04, 0x05, 0x06, 0x07, 0x08, 0x09, 0x0A], 0⟩ =
      .ok (.iwpPt16 0x0102 0x8304 0x0506 0x0708 0x090A) := rfl
/-- Rules R107 and R178: an unrecognised byte, and a command one byte short. -/
theorem test_word_no_command :
    decodeCmd [0x04, 0, 0, 0, 0] = .error (.unknownCommand 4) ∧
    decodeCmd [0x01, 0, 0, 0] = .error (.truncatedCommand 1) ∧
    decodeCmd [0x02, 0, 0, 0, 0, 0, 0] = .error (.truncatedCommand 2) ∧
    decodeCmd [0x03, 0, 0, 0, 0, 0, 0, 0, 0, 0] = .error (.truncatedCommand 3) := ⟨rfl, rfl, rfl, rfl⟩

theorem test_word_misc :
    decode ⟨.hostCmd, [0x00], 7⟩ = .ok .nop ∧ decode ⟨.hostCmd, [0x01], 7⟩ = .ok .decodeIlda ∧
    decode ⟨.hostCmd, [0x20], 7⟩ = .ok (.parseIwp 7) ∧ decode ⟨.hostCmd, [0x50], 7⟩ = .ok .rdReg :=
  ⟨rfl, rfl, rfl, rfl⟩
theorem test_word_transform :
    decode ⟨.hostCmd, [0x10], 7⟩ = .ok .xfI2w ∧ decode ⟨.hostCmd, [0x11], 7⟩ = .ok .xfW2i ∧
    decode ⟨.hostCmd, [0x12], 7⟩ = .ok .xfW2s ∧ decode ⟨.hostCmd, [0x13], 7⟩ = .ok .xfExp ∧
    decode ⟨.hostCmd, [0x14], 7⟩ = .ok .xfNar ∧ decode ⟨.hostCmd, [0x15], 7⟩ = .ok .xfWcol ∧
    decode ⟨.hostCmd, [0x16], 7⟩ = .ok .xfFrame ∧ decode ⟨.hostCmd, [0x17], 7⟩ = .ok .xfCurrent :=
  ⟨rfl, rfl, rfl, rfl, rfl, rfl, rfl, rfl⟩
theorem test_word_framer :
    decode ⟨.hostCmd, [0x30], 7⟩ = .ok .txOpen ∧ decode ⟨.hostCmd, [0x31], 7⟩ = .ok .txSetRate ∧
    decode ⟨.hostCmd, [0x32], 7⟩ = .ok .txPack ∧ decode ⟨.hostCmd, [0x33], 7⟩ = .ok .txClose ∧
    decode ⟨.hostCmd, [0x34], 7⟩ = .ok .txSetMaxdg := ⟨rfl, rfl, rfl, rfl, rfl⟩
theorem test_word_sequencer :
    decode ⟨.hostCmd, [0x40], 7⟩ = .ok .seqLoad ∧ decode ⟨.hostCmd, [0x41], 7⟩ = .ok (.seqPlay 7) ∧
    decode ⟨.hostCmd, [0x42], 7⟩ = .ok .seqPause ∧ decode ⟨.hostCmd, [0x43], 7⟩ = .ok .seqStop ∧
    decode ⟨.hostCmd, [0x44], 7⟩ = .ok (.seqUpdate 7) ∧ decode ⟨.hostCmd, [0x45], 7⟩ = .ok .seqNext ∧
    decode ⟨.hostCmd, [0x46], 7⟩ = .ok .seqPrev ∧ decode ⟨.hostCmd, [0x47], 7⟩ = .ok .seqSetFps ∧
    decode ⟨.hostCmd, [0x48], 7⟩ = .ok .seqSetSpeed ∧ decode ⟨.hostCmd, [0x49], 7⟩ = .ok .seqSetLoop ∧
    decode ⟨.hostCmd, [0x4A], 7⟩ = .ok .seqSnapshot :=
  ⟨rfl, rfl, rfl, rfl, rfl, rfl, rfl, rfl, rfl, rfl, rfl⟩
/-- The edges of the unassigned ranges (rule R112). -/
theorem test_word_unassigned :
    [0x02, 0x0F, 0x18, 0x1F, 0x21, 0x2F, 0x35, 0x3F, 0x4B, 0x4F, 0x51, 0xFF].map
        (fun op : Byte => decodeHost op 0) =
      [0x02, 0x0F, 0x18, 0x1F, 0x21, 0x2F, 0x35, 0x3F, 0x4B, 0x4F, 0x51, 0xFF].map
        (fun op : Byte => Except.error (HostReject.unassignedOpcode op)) := rfl

/-- Table words of each format (assumption log 6). -/
theorem test_table_words :
    decodeTableWord 8 0x32 = some .txPack ∧ decodeTableWord 16 0 = some (.ildaFmt0 (hdr 0 0) []) ∧
    decodeTableWord 8 5 = some (.ildaFmt5 (hdr 5 0) []) ∧ decodeTableWord 16 3 = some (.iwpPt16 0 0 0 0 0) ∧
    decodeTableWord 16 2 = some (.iwpPt8 0 0 0 0 0) ∧ decodeTableWord 8 0x02 = some (.ildaFmt2 (hdr 2 0) []) ∧
    decodeTableWord 8 0x06 = none := ⟨rfl, rfl, rfl, rfl, rfl, rfl, rfl⟩

/-- A table word placed after reset runs in the very next step: TX_PACK with no session, and an IWP point. -/
theorem test_fetch_word_runs :
    view (step (State.reset.withFetchWord 8 0x32)) (fun t => t.res.status) = some 0x20 ∧
    view (step (State.reset.withFetchWord 16 3)) (fun t => (t.res.status, t.prs.pkt.cmds)) =
      some (0x10, [.pt16 0 0 0 0 0]) ∧
    view (step (State.reset.withFetchWord 8 5)) (fun t => (t.res.status, t.res.q0, t.res.q1)) = some (0x01, 1, 32) :=
  ⟨rfl, rfl, rfl⟩

/-! ### ILDA sections -/

theorem test_ildaFmt0_reads_palette :
    view (exec (.ildaFmt0 (hdr 0 1) [⟨0xFFFF, 1, 0x8000, 0x40, 3⟩]) State.reset)
      (fun t => (t.dec.fstore.map Frame.points, t.dec.off, t.dec.stop)) =
      some ([[⟨0xFFFF, 1, 0x8000, 0x40, 255, 255, 255⟩]], 40, 0) := rfl
theorem test_ildaFmt1_has_no_z :
    view (exec (.ildaFmt1 (hdr 1 2) [⟨5, 6, 0, 0⟩]) State.reset)
      (fun t => (t.dec.fstore.map Frame.points, t.dec.off, t.dec.stop)) =
      some ([[⟨5, 6, 0, 0, 255, 255, 255⟩]], 38, 0x04) := rfl
theorem test_ildaFmt2_loads_palette :
    view (exec (.ildaFmt2 (hdr 2 2) [⟨1, 2, 3⟩, ⟨4, 5, 6⟩]) State.reset)
      (fun t => (t.dec.pal[0], t.dec.pal[1], t.dec.pal[2], t.dec.off, t.dec.fstore)) =
      some (⟨1, 2, 3⟩, ⟨4, 5, 6⟩, ⟨255, 255, 255⟩, 38, []) := rfl
/-- The palette holds 256 entries: record 256 is passed over (rule R133). -/
theorem test_ildaFmt2_stops_at_256 :
    view (exec (.ildaFmt2 (hdr 2 257) (List.replicate 256 ⟨7, 7, 7⟩ ++ [⟨9, 9, 9⟩])) State.reset)
      (fun t => (t.dec.pal[0], t.dec.pal[255], t.dec.off)) = some (⟨7, 7, 7⟩, ⟨7, 7, 7⟩, 803) := by decide +kernel
theorem test_ildaFmt4_channel_order :
    view (exec (.ildaFmt4 (hdr 4 1) [{ x := 0x7FFF, y := 0x8000, z := 9, status := 0, b := 0x11, g := 0x22, r := 0x33 }])
      State.reset) (fun t => t.dec.fstore.map Frame.points) =
      some [[{ x := 0x7FFF, y := 0x8000, z := 9, status := 0, r := 0x33, g := 0x22, b := 0x11 }]] := rfl
theorem test_ildaFmt5_channel_order :
    view (exec (.ildaFmt5 (hdr 5 1) [{ x := 1, y := 2, status := 0x40, b := 0x01, g := 0x02, r := 0x03 }])
      State.reset) (fun t => t.dec.fstore.map Frame.points) =
      some [[{ x := 1, y := 2, z := 0, status := 0x40, r := 3, g := 2, b := 1 }]] := rfl

/-- Vector E3. -/
theorem test_decodeIlda_e3 :
    view (exec .decodeIlda (withIbuf e3Image))
      (fun t => (t.dec.fstore.map Frame.points, t.res.q0, t.res.q1, t.res.status)) =
      some ([e3Points], 1, 85, 0x01) := by decide +kernel
/-- Vector V1.4: the truncated section is used. -/
theorem test_decodeIlda_v1_4 :
    view (exec .decodeIlda (withIbuf (hdrBytesOf 5 3 ++ [0x00, 0x00, 0x00, 0x00, 0x00, 0x11, 0x22, 0x33] ++
      [0x00, 0x01, 0x00, 0x02, 0x40, 0x01, 0x02, 0x03] ++ [0x00, 0x00, 0x00])))
      (fun t => (t.dec.fstore.map Frame.points, t.res.q0, t.res.q1, t.res.status)) =
      some ([[⟨0, 0, 0, 0x00, 0x33, 0x22, 0x11⟩, ⟨1, 2, 0, 0x40, 3, 2, 1⟩]], 1, 48, 0x04) := by decide +kernel

/-! ### IWP commands -/

theorem test_iwpOff : view (exec .iwpOff State.reset) (fun t => (t.prs.pkt.cmds, t.prs.pkt.points, t.prs.pkt.endOff)) =
    some ([.off], [], 1) := rfl
theorem test_iwpPeriod : view (exec (.iwpPeriod 0) State.reset) (fun t => (t.prs.pkt.cmds, t.prs.pkt.period)) =
    some ([.period 0], some 0) := rfl
/-- Blanking of a type-2 point is never inferred (vector V3.10). -/
theorem test_iwpPt8 : view (exec (.iwpPt8 0 0 0 0 0) State.reset) (fun t => t.prs.pkt.points) =
    some [⟨0, 0, 0, 0, 0, false⟩] := rfl
/-- Vectors E6 and V3.9. -/
theorem test_iwpPt16 :
    view (exec (.iwpPt16 1 2 0 0 0) State.reset) (fun t => t.prs.pkt.points) = some [⟨1, 2, 0, 0, 0, true⟩] ∧
    view (exec (.iwpPt16 0 0 0 0 1) State.reset) (fun t => t.prs.pkt.points) = some [⟨0, 0, 0, 0, 1, false⟩] :=
  ⟨rfl, rfl⟩

/-- Vector E5. -/
theorem test_parseIwp_e5 :
    view (exec (.parseIwp 500)
      (withRbuf [0x01, 0x00, 0x00, 0x03, 0xE8, 0x03, 0x80, 0x00, 0x80, 0x00, 0xFF, 0xFF, 0x00, 0x00, 0x00, 0x00]))
      (fun t => (t.prs.pkt, t.res.q0, t.res.q1, t.res.status)) =
      some (⟨[⟨32768, 32768, 65535, 0, 0, false⟩], [.period 1000, .pt16 32768 32768 65535 0 0], some 1000, 500, 16, 16,
        0x10⟩, 1, 2, 0x10) := by decide +kernel
/-- Vector V3.7: a truncated type-3 command after three commands. -/
theorem test_parseIwp_v3_7 :
    view (exec (.parseIwp 9)
      (withRbuf [0x00, 0x01, 0x00, 0x00, 0x00, 0x00, 0x02, 0x00, 0x01, 0x00, 0x01, 0x00, 0x00, 0x00, 0x03, 0x12]))
      (fun t => (t.prs.pkt, t.prs.received, t.prs.valid, t.prs.invalid)) =
      some (⟨[⟨1, 1, 0, 0, 0, false⟩], [.off, .period 0, .pt8 1 1 0 0 0], some 0, 9, 16, 14, 0x12⟩, 1, 1, 0) := by
  decide +kernel

/-! ### Transformer (vectors V2) -/

/-- Q0, Q1 and STATUS after a command. -/
def results (i : Instr) (s : State) : Option (Word × Word × Byte) :=
  view (exec i s) fun t => (t.res.q0, t.res.q1, t.res.status)

theorem test_xfI2w_v2_4 : results .xfI2w (args 0xFFFF 1 0 0) = some (32767, 32767, 0x00) := by decide
theorem test_xfI2w_v2_3 : results .xfI2w (args 0x12348000 0x8000 0 0) = some (0, 0, 0x00) := by decide
theorem test_xfW2i_v2_7 : results .xfW2i (args 65535 1 0 0) = some (0x7FFF, 0x7FFF, 0x00) := by decide
theorem test_xfW2i_v2_8 : results .xfW2i (args 0 0 0 0) = some (0x8000, 0x8000, 0x00) := by decide
theorem test_xfW2s_v2_12 : results .xfW2s (args 65535 65535 800 600) = some (799, 599, 0x00) := by decide
theorem test_xfW2s_v2_16 : results .xfW2s (args 100 100 0 600) = some (0, 0, 0xE0) := by decide
theorem test_xfExp_v2_18 : results .xfExp (args 0x1FF 0 0 0) = some (65535, 0, 0x00) := by decide
theorem test_xfExp_v2_17 : results .xfExp (args 200 0 0 0) = some (51400, 0, 0x00) := by decide
theorem test_xfNar_v2_19 : results .xfNar (args 255 0 0 0) = some (255, 0, 0x00) := by decide
theorem test_xfNar_v2_19_wide : results .xfNar (args 1000 0 0 0) = some (3, 0, 0x00) := by decide
theorem test_xfWcol_v2_20 : results .xfWcol (args 255 0 0 0) = some (65535, 0, 0x00) := by decide
theorem test_xfWcol_v2_21 : results .xfWcol (args 65535 1 0 0) = some (0, 0, 0x00) := by decide

/-! ### Framer (vectors V4) -/

/-- Vectors V4.22 and V4.23. -/
theorem test_xfFrame :
    view (exec .xfFrame (e3Loaded none)) (fun t => (t.enc.pin, t.res.q0, t.res.status)) =
      some ([⟨32868, 32868, 0, 0, 255, false⟩, ⟨32767, 32767, 255, 0, 0, true⟩], 2, 0x00) := by decide
theorem test_xfFrame_no_frame :
    results .xfFrame { e3Loaded none with arg := ⟨1, 0, 0, 0⟩ } = some (0, 0, 0xE1) := by decide
/-- Program P1 step 5, and vector V4.24. -/
theorem test_xfCurrent : results .xfCurrent (e3Loaded none) = some (0, 2, 0x00) := by decide
theorem test_xfCurrent_v4_24 : results .xfCurrent State.reset = some (0, 0, 0xE1) := by decide

/-- What an encoder command emits, Q0, STATUS and TX_SESSION. -/
def emitted (i : Instr) (s : State) : Option (List (List Byte) × Word × Byte × Bool) :=
  view (exec i s) fun t => (t.enc.txq, t.res.q0, t.res.status, t.enc.session)

theorem test_txOpen_v4_13 :
    emitted .txOpen (args 30000 0 0 0) = some ([[0x01, 0x00, 0x00, 0x00, 0x21]], 33, 0x00, true) := by decide +kernel
theorem test_txSetRate_v4_15 : emitted .txSetRate (args 1000 0 0 0) = some ([], 1000, 0x00, false) := by decide +kernel
theorem test_txSetRate_v4_16 :
    emitted .txSetRate (session (args 30000 0 0 0) true 1023 [] []) =
      some ([[0x01, 0x00, 0x00, 0x00, 0x21]], 33, 0x00, true) := by decide +kernel
/-- Vector V4.4: exact halves round to even; V4.5: clamped to 1. -/
theorem test_period_ties : [400000, 80000, 16000, 3200, 640, 128, 2000000, 666667].map periodUs =
    [2, 12, 62, 312, 1562, 7812, 1, 1] := by decide +kernel
theorem test_txPack_v4_7 :
    emitted .txPack (session State.reset true 1023
      [⟨32868, 32868, 0, 0, 255, false⟩, ⟨32767, 32767, 255, 0, 0, true⟩] []) =
      some ([[0x03, 0x80, 0x64, 0x80, 0x64, 0x00, 0x00, 0x00, 0x00, 0xFF, 0xFF,
              0x03, 0x7F, 0xFF, 0x7F, 0xFF, 0x00, 0x00, 0x00, 0x00, 0x00, 0x00]], 1, 0x00, true) := by decide +kernel
/-- Vector V4.10: datagrams of one record each. -/
theorem test_txPack_v4_10 :
    view (exec .txPack (session State.reset true 21 (List.replicate 3 ⟨0, 0, 0, 0, 0, true⟩) []))
      (fun t => (t.enc.txq.map List.length, t.res.q0, t.enc.ndgram)) = some ([11, 11, 11], 3, 3) := by decide +kernel
theorem test_txClose_v4_17 :
    emitted .txClose (session State.reset true 1023 [] []) = some ([[0x00]], 1, 0x00, false) := by decide
theorem test_txClose_v4_19 :
    emitted .txClose (session (limited (some 1) none none) true 1023 [] [[0x00]]) =
      some ([[0x00]], 0, 0x22, false) := by decide
/-- Vector V4.21. -/
theorem test_txSetMaxdg_v4_21 :
    [10, 11, 65535, 65536].map (fun a => view (exec .txSetMaxdg (args a 0 0 0))
      fun t => (t.enc.maxdg, t.res.status)) =
      [some (1023, 0xE0), some (11, 0x00), some (65535, 0x00), some (1023, 0xE0)] := by decide

/-! ### Sequencer (vectors V5) -/

/-- Q0, Q1, SEQ_STATE, SEQ_INDEX and SEQ_LAST after a command. -/
def sequenced (i : Instr) (s : State) : Option (Word × Word × PlayState × Word × Time) :=
  view (exec i s) fun t => (t.res.q0, t.res.q1, t.seq.state, t.seq.index, t.seq.last)

theorem test_seqLoad_v5_18 :
    view (exec .seqLoad { playing3 State.reset .playing 2 true 7 with
      dec := { State.reset.dec with fstore := [frameOf [], frameOf []] } })
      (fun t => (t.res.q0, t.seq.n, t.seq.state, t.seq.index, t.seq.flist.length)) =
      some (2, 2, .stopped, 0, 2) := rfl
theorem test_seqPlay_v5_1 :
    sequenced (.seqPlay 1000) (playing3 State.reset .stopped 0 true 0) = some (2, 0, .playing, 0, 1000) := by decide
theorem test_seqPlay_v5_11 :
    sequenced (.seqPlay 9000) (playing3 State.reset .playing 0 true 500) = some (2, 0, .playing, 0, 500) := by decide
theorem test_seqPause_playing :
    sequenced .seqPause (playing3 State.reset .playing 1 true 500) = some (1, 0, .paused, 1, 500) := by decide
theorem test_seqPause_v5_12 :
    sequenced .seqPause (playing3 State.reset .stopped 0 true 0) = some (0, 0, .stopped, 0, 0) := by decide
theorem test_seqStop_v5_10 :
    sequenced .seqStop (playing3 State.reset .paused 2 true 500) = some (0, 0, .stopped, 0, 500) := by decide
/-- Vectors V5.2 and V5.3: 33333 microseconds are not due at 30 frames per second, 33334 are. -/
theorem test_seqUpdate_due :
    sequenced (.seqUpdate 34333) (playing3 State.reset .playing 0 true 1000) = some (0, 0, .playing, 0, 1000) ∧
    sequenced (.seqUpdate 34334) (playing3 State.reset .playing 0 true 1000) = some (1, 1, .playing, 1, 34334) := by
  decide
theorem test_seqUpdate_v5_8 :
    sequenced (.seqUpdate 40000) (playing3 State.reset .playing 2 false 0) = some (0, 2, .paused, 2, 40000) := by decide
theorem test_seqNext_v5_6 :
    sequenced .seqNext (playing3 State.reset .playing 2 false 0) = some (2, 0, .paused, 2, 0) := by decide
theorem test_seqNext_v5_7 :
    sequenced .seqNext (playing3 State.reset .playing 2 true 0) = some (0, 0, .playing, 0, 0) := by decide
theorem test_seqPrev_v5_9 :
    sequenced .seqPrev (playing3 State.reset .stopped 0 false 0) = some (2, 0, .stopped, 2, 0) := by decide
theorem test_seqPrev_v5_16 : sequenced .seqPrev State.reset = some (0, 0, .stopped, 0, 0) := by decide
theorem test_seqSetFps_v5_13 :
    [0, 60000, 0xFFFFFFFF].map (fun a => view (exec .seqSetFps (args a 0 0 0)) fun t => (t.res.q0, t.seq.fps)) =
      [some (100, 100), some (60000, 60000), some (1000000, 1000000)] := by decide
theorem test_seqSetSpeed_v5_14 :
    [0, 2000, 20000].map (fun a => view (exec .seqSetSpeed (args a 0 0 0)) fun t => (t.res.q0, t.seq.speed)) =
      [some (100, 100), some (2000, 2000), some (10000, 10000)] := by decide
theorem test_seqSetLoop_low_bit :
    [0, 1, 2, 3].map (fun a => view (exec .seqSetLoop (args a 0 0 0)) fun t => (t.res.q0, t.seq.loop)) =
      [some (0, false), some (1, true), some (0, false), some (1, true)] := by decide
theorem test_seqSnapshot_v5_19 :
    view (exec .seqSnapshot (playing3 State.reset .paused 1 true 0)) (fun t => (t.res.q0, t.res.q1, t.res.q2)) =
      some (1, 3, 1) := by decide

/-! ### Host interface (vectors V6) -/

theorem test_nop_v6_5 :
    view (exec .nop { State.reset with res := ⟨1, 2, 3, 4, 0x22⟩ }) (fun t => t.res) = some ⟨1, 2, 3, 4, 0x00⟩ := by decide
theorem test_rdReg_v6_1 :
    [0x30, 0x32, 0x23, 0x24, 0x22].map (fun a => view (exec .rdReg (args a 0 0 0)) fun t => t.res.q0) =
      [some 1023, some 1, some 30000, some 1000, some 1] := by decide
/-- Vectors V6.2 and V6.4: an unassigned number, and STATUS read before it is written. -/
theorem test_rdReg_v6_2 :
    results .rdReg (args 0x05 0 0 0) = some (0, 0, 0xE0) ∧
    results .rdReg { State.reset with res := ⟨9, 0, 0, 0, 0x12⟩ } = some (0x12, 0, 0x00) := by decide
/-- Vector V6.3. -/
theorem test_unassigned_v6_3 :
    view (step { State.reset with port := [.issue 0x02 0], res := ⟨1, 2, 3, 4, 0⟩ }) (fun t => (t.res, t.port)) =
      some (⟨1, 2, 3, 4, 0xFF⟩, []) := by decide
/-- Rules R71 and R63: reads of a register, a palette entry and a frame, and of places that name nothing (assumption
log 2); the block's state stays. -/
theorem test_host_reads :
    [ReadPlace.reg 0x30, .reg 0x05, .palEntry 255, .frame 0, .txq].map
        (fun p => view (step { State.reset with port := [.read p] }) fun t => (t.answer, t.port)) =
      [some (some (.word 1023), []), some (none, []), some (some (.colour ⟨255, 255, 255⟩), []), some (none, []),
       some (some (.datagrams []), [])] := by decide +kernel
/-- Rule R301: a command between overwrites a result, and the host's answer keeps what it read. -/
theorem test_host_read_keeps_answer :
    view (step { State.reset with port := [.issue 0x00 0], res := ⟨1, 2, 3, 4, 0x12⟩, answer := some (.word 0x12) })
      (fun t => (t.res.status, t.answer)) = some (0x00, some (.word 0x12)) := by decide
/-- Rule R61: the model has no step for a write over the capacity (assumption log 4). -/
theorem test_oversized_write_stops :
    step { limited none none (some 1) with port := [.writePin [⟨0, 0, 0, 0, 0, true⟩, ⟨0, 0, 0, 0, 0, true⟩]] } =
      .fault (.hostWriteOverCapacity .pin) := rfl
/-- Rule R123. -/
theorem test_trimmed_name : trimmed #v[0x41, 0x20, 0x42, 0x20, 0x00, 0x20, 0x00, 0x00] = [0x41, 0x20, 0x42] := by decide

/-! ### Witnesses

For every statement with hypotheses, concrete values that meet all of them, at the edges of their ranges. -/

theorem witness_DecodeEncodeRoundTrip : (Instr.ildaFmt5 (hdr 5 2) [⟨1, 2, 3, 4, 5, 6⟩]).wellFormed = true := by decide
theorem witness_DecodedInstructionsAreWellFormed :
    decode ⟨.ildaSection, hdrBytesOf 2 1 ++ [9, 9, 9], 0⟩ = .ok (.ildaFmt2 (hdr 2 1) [⟨9, 9, 9⟩]) := rfl
theorem witness_HostOpcodesReencode : decodeHost 0x44 5 = .ok (.seqUpdate 5) := rfl
theorem witness_ReservedHeaderBytesIgnored :
    (hdrBytesOf 5 0).length = ((hdrBytesOf 5 0).set 31 0x80).length ∧
    ∀ a, a ≠ 4 → a ≠ 5 → a ≠ 6 → a ≠ 31 → (hdrBytesOf 5 0)[a]? = ((hdrBytesOf 5 0).set 31 0x80)[a]? :=
  ⟨rfl, fun _ _ _ _ h => (List.getElem?_set_ne (Ne.symm h)).symm⟩
theorem witness_DecodedCommandsReencode : decodeCmd [0x01, 0, 0, 0, 7, 0xFF] = .ok (.period 7) := rfl

/-- Reset with host steps at the port. -/
def atPort (s : State) (p : List HostStep) : State := { s with port := p }

theorem witness_StepRunsIssuedCommand :
    (atPort State.reset [.issue 0x41 9]).port = .issue 0x41 9 :: [] ∧
    decode ⟨.hostCmd, [0x41], 9⟩ = .ok (.seqPlay 9) := ⟨rfl, rfl⟩
theorem witness_UnassignedOpcodeIsRefused :
    ∀ op ∈ ([0x02, 0x0F, 0x18, 0x1F, 0x21, 0x2F, 0x35, 0x3F, 0x4B, 0x4F, 0x51, 0xFF] : List Byte),
      ((0x02 ≤ op.toNat ∧ op.toNat ≤ 0x0F) ∨ (0x18 ≤ op.toNat ∧ op.toNat ≤ 0x1F) ∨
        (0x21 ≤ op.toNat ∧ op.toNat ≤ 0x2F) ∨ (0x35 ≤ op.toNat ∧ op.toNat ≤ 0x3F) ∨
        (0x4B ≤ op.toNat ∧ op.toNat ≤ 0x4F) ∨ 0x51 ≤ op.toNat) := by
  decide

/-- A configuration whose buffers hold one element. -/
def tight : State :=
  State.resetWith { Config.default with ibufSize := some 1, rbufSize := some 1, pinSize := some 1 }

theorem witness_HostStepsTakeEffect :
    (atPort tight [.issue 0x02 7]).port = .issue 0x02 7 :: [] ∧
    (atPort tight [.writeArg 0 7]).port = .writeArg 0 7 :: [] ∧
    (atPort tight [.writeArg 1 7]).port = .writeArg 1 7 :: [] ∧
    (atPort tight [.writeArg 2 7]).port = .writeArg 2 7 :: [] ∧
    (atPort tight [.writeArg 3 7]).port = .writeArg 3 7 :: [] ∧
    ((atPort tight [.writeIbuf [7]]).port = .writeIbuf [7] :: [] ∧ tight.cfg.ibufSize.admits [(7 : Byte)].length = true) ∧
    ((atPort tight [.writeRbuf [7]]).port = .writeRbuf [7] :: [] ∧ tight.cfg.rbufSize.admits [(7 : Byte)].length = true) ∧
    (atPort tight [.read .pin]).port = .read .pin :: [] ∧
    ((atPort tight [.writePin [⟨0, 0, 0, 0, 0, true⟩]]).port = .writePin [⟨0, 0, 0, 0, 0, true⟩] :: [] ∧
      tight.cfg.pinSize.admits [(⟨0, 0, 0, 0, 0, true⟩ : WirePoint)].length = true) ∧
    State.reset.port = [] :=
  ⟨rfl, rfl, rfl, rfl, rfl, ⟨rfl, rfl⟩, ⟨rfl, rfl⟩, rfl, ⟨rfl, rfl⟩, rfl⟩
/-- A register of the map at its last number, an unassigned one, ARG0 itself, and a space. -/
theorem witness_HostReadsAnswerTheState :
    (∀ p ∈ [ReadPlace.reg 0x60, .reg 0x61, .reg 0x08, .frame 0, .txq],
      (atPort State.reset [.read p]).port = .read p :: []) ∧
    (∃ t, ReadPlace.reg 0x60 = .reg ((0x60 : Word).extractLsb' 0 8) ∧ ReadPlace.reg 0x60 ≠ .reg 0x08 ∧
      exec .rdReg { atPort State.reset [.read (.reg 0x60)] with arg := ⟨0x60, 0, 0, 0⟩ } = .next t ∧
      t.res.status = 0x00) ∧
    (∃ t, ReadPlace.reg 0x61 = .reg ((0x61 : Word).extractLsb' 0 8) ∧ ReadPlace.reg 0x61 ≠ .reg 0x08 ∧
      exec .rdReg { atPort State.reset [.read (.reg 0x61)] with arg := ⟨0x61, 0, 0, 0⟩ } = .next t ∧
      t.res.status ≠ 0x00) :=
  ⟨fun _ _ => rfl, ⟨_, rfl, by decide, rfl, by decide⟩, _, rfl, by decide, rfl, by decide⟩
theorem witness_StepStopsOnlyOnOversizedWrite :
    (atPort tight [.writeIbuf [7, 7]]).port = .writeIbuf [7, 7] :: [] ∧
    stepFits (atPort tight [.writeIbuf [7, 7]]).cfg (.writeIbuf [7, 7]) = false ∧
    step (atPort tight [.writeIbuf [7, 7]]) = .fault (.hostWriteOverCapacity .ibuf) := ⟨rfl, rfl, rfl⟩

theorem witness_ResetMeetsInvariant :
    Config.default.legal = true ∧ { Config.default with resetFps := 100, resetSpeed := 10000 }.legal = true ∧
    { Config.default with resetFps := 1000000, resetSpeed := 100 }.legal = true := by decide

/-- An open session of the smallest datagrams, one point to send, TX_PACK at the port. -/
def openSession : State :=
  { session State.reset true 11 [⟨1, 2, 3, 4, 5, false⟩] [[0x01] ++ put32 (periodUs 0)] with
    port := [.issue 0x32 0] }

theorem witness_StepKeepsInvariant : Inv openSession ∧ ∃ t, step openSession = .next t := by
  refine ⟨⟨by decide, rfl, ⟨rfl, by decide, by simp [openSession, session, State.reset, State.resetWith], rfl, rfl⟩,
    ⟨.inl rfl, by decide, by decide, by decide⟩, ⟨by decide, rfl, rfl, rfl, ?_⟩,
    ⟨rfl, .inl ⟨rfl, rfl⟩, by decide, by decide, by simp [openSession, session, State.reset, State.resetWith]⟩⟩,
    _, rfl⟩
  intro d hd
  exact .inr (.inl ⟨periodUs 0, by simpa [openSession, session] using hd⟩)

theorem witness_StepKeepsPeriodFirst :
    11 ≤ openSession.enc.maxdg.toNat ∧ PeriodFirst openSession.enc ∧ ∃ t, step openSession = .next t :=
  ⟨by decide, ⟨true, by decide +kernel, fun _ => rfl⟩, _, rfl⟩

/-- One completed command serves every statement whose hypothesis is only `exec i s = .next t`. -/
theorem witness_command_completes :
    (∃ t, exec .txPack openSession = .next t) ∧ (∃ t, exec .decodeIlda (withIbuf e3Image) = .next t) ∧
    (∃ t, exec (.parseIwp 5) (withRbuf [0x00]) = .next t) := ⟨⟨_, rfl⟩, ⟨_, rfl⟩, ⟨_, rfl⟩⟩
theorem witness_ContextsOwnTheirState :
    (mayIssue .mainLoop .decodeIlda = true ∧ ∃ t, exec .decodeIlda (withIbuf e3Image) = .next t) ∧
    (mayIssue .receive (.parseIwp 5) = true ∧ ∃ t, exec (.parseIwp 5) (withRbuf [0x00]) = .next t) ∧
    (mayIssue .transmit .txPack = true ∧ ∃ t, exec .txPack openSession = .next t) :=
  ⟨⟨rfl, _, rfl⟩, ⟨rfl, _, rfl⟩, rfl, _, rfl⟩
theorem witness_CommandsEndWithTheirCodes :
    isHostCommand .txPack = true ∧ ∃ t, exec .txPack openSession = .next t := ⟨by decide, _, rfl⟩
theorem witness_UnnamedResultsKeepTheirValue :
    (namedQ .nop = 0 ∧ ∃ t, exec .nop State.reset = .next t) ∧
    (namedQ .txPack ≤ 1 ∧ ∃ t, exec .txPack openSession = .next t) ∧
    (namedQ .xfI2w ≤ 2 ∧ ∃ t, exec .xfI2w State.reset = .next t) :=
  ⟨⟨rfl, _, rfl⟩, ⟨by decide, _, rfl⟩, by decide, _, rfl⟩

/-- A frame store with room for one frame of one point. -/
def oneFrame : State := State.resetWith { Config.default with maxFrames := some 1, maxPoints := some 1 }

theorem witness_PointSectionsStoreOneFrame :
    oneFrame.cfg.maxFrames.admits (oneFrame.dec.fstore.length + 1) = true ∧
    oneFrame.cfg.maxPoints.admits ((oneFrame.dec.fstore.map fun f => f.points.length).sum +
      [(⟨1, 2, 3, 4, 5⟩ : Indexed3)].length) = true := ⟨rfl, rfl⟩
theorem witness_SectionOverCapacityStoresNothing :
    (∀ h recs, Sec.fmt5 (hdr 5 2) [⟨1, 2, 3, 4, 5, 6⟩, ⟨1, 2, 3, 4, 5, 6⟩] ≠ .fmt2 h recs) ∧
    oneFrame.cfg.maxPoints.admits ((oneFrame.dec.fstore.map fun f => f.points.length).sum +
      secRecords (.fmt5 (hdr 5 2) [⟨1, 2, 3, 4, 5, 6⟩, ⟨1, 2, 3, 4, 5, 6⟩])) = false ∧
    (limited none (some 0) none).cfg.maxFrames.admits ((limited none (some 0) none).dec.fstore.length + 1) = false :=
  ⟨fun _ _ h => (by cases h), rfl, rfl⟩

/-- The sections of vector E3. -/
def e3Secs : List Sec :=
  [.fmt2 (hdr 2 3) [⟨255, 0, 0⟩, ⟨0, 255, 0⟩, ⟨0, 0, 255⟩], .fmt1 (hdr 1 2) [⟨100, 0xFF9C, 0, 2⟩, ⟨0xFFFF, 1, 0x40, 0⟩]]

theorem e3Secs_complete : ∀ x ∈ e3Secs, SecComplete x := by
  intro x hx
  simp only [e3Secs, List.mem_cons, List.not_mem_nil, or_false] at hx
  rcases hx with rfl | rfl <;> exact ⟨by decide, rfl⟩

/-- The default frame store, and finite ones that hold the one frame and two points of E3 exactly. -/
theorem e3Secs_fit : SectionsFit Config.default e3Secs ∧
    SectionsFit { Config.default with maxFrames := some 1, maxPoints := some 2 } e3Secs := ⟨⟨rfl, rfl⟩, rfl, rfl⟩

/-- E3's image with each of the three ends: nothing, 32 zero bytes (vector V1.7), a header of format 3. -/
theorem witness_DecodeRunsWholeSections :
    SectionsFit (withIbuf e3Image).cfg e3Secs ∧
    (∀ x ∈ e3Secs, SecComplete x) ∧ decodeSec [] = .error .shortHeader ∧
    e3Image = e3Secs.flatMap encodeSec ++ [] ∧
    decodeSec (List.replicate 32 0) = .error .badMagic ∧
    decodeSec (hdrBytesOf 3 0) = .error (.unsupportedFormat 3) :=
  ⟨e3Secs_fit.1, e3Secs_complete, rfl, rfl, rfl, rfl⟩
/-- Vector V1.11: MAX_FRAMES = 1, and two point sections. MAX_POINTS = 2 refuses a third point likewise. -/
theorem witness_DecodeStopsAtFullStore :
    let secs := [Sec.fmt1 (hdr 1 0) []]
    let x := Sec.fmt4 (hdr 4 1) [⟨0x7FFF, 0x8000, 0, 0, 0x11, 0x22, 0x33⟩]
    let s := limited none (some 1) none
    (SectionsFit s.cfg secs ∧ (∀ y ∈ secs, SecComplete y) ∧ decodeSec (encodeSec x) = .ok x ∧
      ¬ SectionsFit s.cfg (secs ++ [x]) ∧
      ({ s with dec := { s.dec with ibuf := secs.flatMap encodeSec ++ encodeSec x } } : State).dec.ibuf =
        secs.flatMap encodeSec ++ encodeSec x ∧
      view (exec .decodeIlda { s with dec := { s.dec with ibuf := secs.flatMap encodeSec ++ encodeSec x } })
        (fun t => (t.res.q0, t.res.q1, t.res.status)) = some (1, 32, 0x05)) ∧
    SectionsFit { Config.default with maxPoints := some 2 } e3Secs ∧
    ¬ SectionsFit { Config.default with maxPoints := some 2 } (e3Secs ++ [x]) := by
  refine ⟨⟨⟨rfl, rfl⟩, ?_, rfl, by unfold SectionsFit; decide, rfl, by decide +kernel⟩, ⟨rfl, rfl⟩,
    by unfold SectionsFit; decide⟩
  intro y hy
  obtain rfl := List.mem_singleton.1 hy
  exact ⟨by decide, rfl⟩
theorem witness_DecodeUsesTruncatedLastSection :
    let x : Sec := .fmt5 (hdr 5 3) [⟨0, 0, 0, 0x11, 0x22, 0x33⟩, ⟨1, 2, 0x40, 1, 2, 3⟩]
    SectionsFit State.reset.cfg (e3Secs ++ [x]) ∧
    SectionsFit { Config.default with maxFrames := some 2, maxPoints := some 4 } (e3Secs ++ [x]) ∧
    (∀ y ∈ e3Secs, SecComplete y) ∧
    x.toInstr.wellFormed = true ∧ secRecords x < (secHeader x).count.toNat ∧ recsize (secHeader x).fmt = some 8 ∧
    ([0, 0, 0, 0, 0, 0, 0] : List Byte).length < 8 ∧
    (withIbuf (e3Secs.flatMap encodeSec ++ encodeSec x ++ [0, 0, 0, 0, 0, 0, 0])).dec.ibuf =
      e3Secs.flatMap encodeSec ++ encodeSec x ++ [0, 0, 0, 0, 0, 0, 0] :=
  ⟨⟨rfl, rfl⟩, ⟨rfl, rfl⟩, e3Secs_complete, by decide, by decide, rfl, by decide, rfl⟩
theorem witness_DecodeStopsForItsReason :
    (∃ t, exec .decodeIlda (withIbuf ((hdrBytesOf 5 0).take 31)) = .next t ∧ t.res.status = 0x01) ∧
    (∃ t, exec .decodeIlda (withIbuf (List.replicate 32 0)) = .next t ∧ t.res.status = 0x02) ∧
    (∃ t, exec .decodeIlda (withIbuf (hdrBytesOf 3 0)) = .next t ∧ t.res.status = 0x03) ∧
    (∃ t, exec .decodeIlda (withIbuf (hdrBytesOf 2 1 ++ [1, 2])) = .next t ∧ t.res.status = 0x04) ∧
    (∃ t, exec .decodeIlda { limited none (some 0) none with dec := (withIbuf (hdrBytesOf 1 0)).dec } = .next t ∧
      t.res.status = 0x05) :=
  ⟨⟨_, rfl, rfl⟩, ⟨_, rfl, rfl⟩, ⟨_, rfl, rfl⟩, ⟨_, rfl, rfl⟩, _, rfl, rfl⟩

/-- The three ends of a parse. -/
theorem witness_ParseReadsTheCommandStream :
    (withRbuf [0x00, 0x01, 0, 0, 0, 7]).prs.rbuf ≠ [] ∧
    (withRbuf [0x00, 0x01, 0, 0, 0, 7]).prs.rbuf = [RawCmd.off, .period 7].flatMap encodeCmd ++ [] ∧
    decodeCmd [] = .error .atEnd ∧
    (withRbuf [0x00, 0x04]).prs.rbuf = [RawCmd.off].flatMap encodeCmd ++ [0x04] ∧
    decodeCmd [0x04] = .error (.unknownCommand 4) ∧
    (withRbuf [0x03]).prs.rbuf = [].flatMap encodeCmd ++ [0x03] ∧
    decodeCmd [0x03] = .error (.truncatedCommand 3) := ⟨by decide, rfl, rfl, rfl, rfl, rfl, rfl⟩
theorem witness_ParseRejectsEmptyDatagram : State.reset.prs.rbuf = [] := rfl
theorem witness_ParseAccountsForTheDatagram : (withRbuf [0xFF]).prs.rbuf ≠ [] := by decide

/-- The corner x = y = -32768, both ways. -/
theorem witness_CoordinatesRoundTrip :
    (args 0x8000 0x8000 0 0).arg.arg0.toNat < 65536 ∧ (args 0x8000 0x8000 0 0).arg.arg1.toNat < 65536 ∧
    (∃ t, ∃ u : State, exec .xfI2w (args 0x8000 0x8000 0 0) = .next t ∧ u.arg.arg0 = t.res.q0 ∧ u.arg.arg1 = t.res.q1) ∧
    (∃ t, ∃ u : State, exec .xfW2i (args 65535 65535 0 0) = .next t ∧ u.arg.arg0 = t.res.q0 ∧ u.arg.arg1 = t.res.q1) :=
  ⟨by decide, by decide, ⟨_, args _ _ 0 0, rfl, rfl, rfl⟩, ⟨_, args _ _ 0 0, rfl, rfl, rfl⟩⟩
theorem witness_XfW2sScales :
    (args 5 5 0x10000 1).arg.arg2.extractLsb' 0 16 = 0#16 ∧ (args 5 5 1 0).arg.arg3.extractLsb' 0 16 = 0#16 ∧
    (args 65535 65535 1 65535).arg.arg2.extractLsb' 0 16 ≠ 0#16 ∧
    (args 65535 65535 1 65535).arg.arg3.extractLsb' 0 16 ≠ 0#16 := by decide
theorem witness_NarrowUndoesExpand :
    ∃ t, ∃ u : State, exec .xfExp (args 255 0 0 0) = .next t ∧ u.arg.arg0 = t.res.q0 := ⟨_, args _ 0 0 0, rfl, rfl⟩

theorem witness_XfFrameLoadsPin :
    (e3Loaded none).seq.n.toNat ≤ ({ e3Loaded none with arg := ⟨1, 0, 0, 0⟩ } : State).arg.arg0.toNat ∧
    (e3Loaded none).arg.arg0.toNat < (e3Loaded none).seq.n.toNat ∧
    (e3Loaded none).seq.flist[(e3Loaded none).arg.arg0.toNat]? = some (frameOf e3Points) ∧
    (e3Loaded (some 2)).cfg.pinSize.admits (frameOf e3Points).points.length = true ∧
    (e3Loaded (some 1)).cfg.pinSize.admits (frameOf e3Points).points.length = false :=
  ⟨by decide, by decide, rfl, rfl, rfl⟩
theorem witness_XfCurrentLoadsPin :
    State.reset.seq.n = 0 ∧ (e3Loaded none).seq.n ≠ 0 ∧
    (e3Loaded none).seq.flist[(e3Loaded none).seq.index.toNat]? = some (frameOf e3Points) ∧
    (e3Loaded (some 2)).cfg.pinSize.admits (frameOf e3Points).points.length = true ∧
    (e3Loaded (some 1)).cfg.pinSize.admits (frameOf e3Points).points.length = false :=
  ⟨rfl, by decide, rfl, rfl, rfl⟩
theorem witness_NamedFramesExist :
    SequencerInv (e3Loaded none).seq ∧ (0 : Word).toNat < (e3Loaded none).seq.n.toNat ∧ (e3Loaded none).seq.n ≠ 0 := by
  refine ⟨⟨by decide, .inr (by decide), by decide, by decide, ?_⟩, by decide, by decide⟩
  intro f hf
  have : f = frameOf e3Points := by simpa [e3Loaded] using hf
  subst this
  exact ⟨.inr (.inl rfl), rfl, by decide⟩

/-- TXQ with room for one more datagram, and with none. -/
theorem witness_txq_room :
    let one := session (limited (some 1) none none) true 11 [⟨0, 0, 0, 0, 0, true⟩] []
    let full := session (limited (some 1) none none) true 11 [⟨0, 0, 0, 0, 0, true⟩] [[0x00]]
    one.enc.session = true ∧ one.cfg.txqCap.admits (one.enc.txq.length + 1) = true ∧
    one.cfg.txqCap.admits
      (one.enc.txq.length + (chunk (one.enc.pin.map encodePoint) (one.enc.maxdg.toNat / 11)).length) = true ∧
    full.enc.session = true ∧ full.cfg.txqCap.admits (full.enc.txq.length + 1) = false ∧
    full.cfg.txqCap.admits
      (full.enc.txq.length + (chunk (full.enc.pin.map encodePoint) (full.enc.maxdg.toNat / 11)).length) = false ∧
    State.reset.enc.session = false := by decide +kernel
theorem witness_TxSetMaxdgStoresLegalValues :
    (11 ≤ (args 11 0 0 0).arg.arg0.toNat ∧ (args 11 0 0 0).arg.arg0.toNat ≤ 65535) ∧
    (11 ≤ (args 65535 0 0 0).arg.arg0.toNat ∧ (args 65535 0 0 0).arg.arg0.toNat ≤ 65535) ∧
    (args 10 0 0 0).arg.arg0.toNat < 11 ∧ 65535 < (args 65536 0 0 0).arg.arg0.toNat := by decide
theorem witness_PeriodIsTheNearestInteger : (2000000 : Word) ≠ 0 ∧ (4294967295 : Word) ≠ 0 := by decide
theorem witness_ChunksHoldWholeRecords :
    11 ≤ 21 ∧ ∃ d, (chunk ((List.replicate 2 (⟨0, 0, 0, 0, 0, true⟩ : WirePoint)).map encodePoint) (21 / 11))[0]? = some d ∧
      0 + 1 < (chunk ((List.replicate 2 (⟨0, 0, 0, 0, 0, true⟩ : WirePoint)).map encodePoint) (21 / 11)).length :=
  ⟨by decide, encodePoint ⟨0, 0, 0, 0, 0, true⟩, by decide +kernel, by decide +kernel⟩
theorem witness_PackedDatagramsParseBack :
    11 ≤ openSession.enc.maxdg.toNat ∧ ∃ t, exec .txPack openSession = .next t ∧ t.res.status = 0x00 :=
  ⟨by decide, _, rfl, by decide +kernel⟩

theorem witness_SeqLoadCopiesTheFrames : State.reset.dec.fstore.length < 4294967296 := by decide
theorem witness_PlayPauseStopTransitions :
    (playing3 State.reset .playing 0 true 0).seq.state = .playing ∧
    (playing3 State.reset .paused 0 true 0).seq.state = .paused ∧
    (playing3 State.reset .paused 0 true 0).seq.state ≠ .playing ∧ State.reset.seq.state = .stopped := by decide

/-- Not due by one microsecond, due at once; next frame, wrap, clamp; and no frame at all. -/
theorem witness_SeqUpdateAdvancesWhenDue :
    let q := (playing3 State.reset .playing 0 true 0).seq
    let wrap := (playing3 State.reset .playing 2 true 0).seq
    let stop := (playing3 State.reset .playing 2 false 0).seq
    ((33333 : Time).toNat - q.last.toNat) * q.fps.toNat * q.speed.toNat < 1000000000000 ∧
    q.state = .playing ∧ q.n ≠ 0 ∧
    1000000000000 ≤ ((33334 : Time).toNat - q.last.toNat) * q.fps.toNat * q.speed.toNat ∧
    q.index.toNat + 1 < q.n.toNat ∧
    (wrap.n.toNat ≤ wrap.index.toNat + 1 ∧ wrap.loop = true ∧ wrap.state = .playing ∧ wrap.n ≠ 0 ∧
      1000000000000 ≤ ((33334 : Time).toNat - wrap.last.toNat) * wrap.fps.toNat * wrap.speed.toNat) ∧
    (stop.n.toNat ≤ stop.index.toNat + 1 ∧ stop.loop = false ∧ stop.state = .playing ∧ stop.n ≠ 0 ∧
      1000000000000 ≤ ((33334 : Time).toNat - stop.last.toNat) * stop.fps.toNat * stop.speed.toNat) ∧
    State.reset.seq.n = 0 ∧ State.reset.seq.state ≠ .playing := by decide
theorem witness_SeqNextPrevMoveTheIndex :
    let q := (playing3 State.reset .playing 0 true 0).seq
    let wrap := (playing3 State.reset .playing 2 true 0).seq
    let stop := (playing3 State.reset .paused 2 false 0).seq
    State.reset.seq.n = 0 ∧ (q.n ≠ 0 ∧ q.index.toNat + 1 < q.n.toNat) ∧
    (wrap.n ≠ 0 ∧ wrap.n.toNat ≤ wrap.index.toNat + 1 ∧ wrap.loop = true) ∧
    (stop.n ≠ 0 ∧ stop.n.toNat ≤ stop.index.toNat + 1 ∧ stop.loop = false) := by decide
theorem witness_PlayingEntersAndLeavesByCommand :
    (∃ t, exec (.seqPlay 5) State.reset = .next t ∧ t.seq.state = .playing ∧ State.reset.seq.state ≠ .playing) ∧
    (∃ t, exec .seqPause (playing3 State.reset .playing 2 true 0) = .next t ∧ t.seq.state ≠ .playing) ∧
    (playing3 State.reset .playing 2 true 0).seq.state = .playing ∧
    (playing3 State.reset .playing 2 true 0).seq.loop = true :=
  ⟨⟨_, rfl, by decide, by decide⟩, ⟨_, rfl, by decide⟩, by decide, by decide⟩

/-- Program P3's frames and speed: two updates, and three. -/
theorem witness_PlaysToTheEndAndPauses :
    let s := playing3 State.reset .playing 0 false 1000
    s.seq.state = .playing ∧ s.seq.loop = false ∧ s.seq.index = 0 ∧ s.seq.n ≠ 0 ∧
    List.IsChain (fun a b : Time => 1000000000000 ≤ (b.toNat - a.toNat) * s.seq.fps.toNat * s.seq.speed.toNat)
      (s.seq.last :: [34334, 67668]) ∧
    (0 < [(34334 : Time), 67668].length ∧ [(34334 : Time), 67668].length < s.seq.n.toNat) ∧
    List.IsChain (fun a b : Time => 1000000000000 ≤ (b.toNat - a.toNat) * s.seq.fps.toNat * s.seq.speed.toNat)
      (s.seq.last :: [34334, 67668, 101002]) ∧
    [(34334 : Time), 67668, 101002].length = s.seq.n.toNat := by
  decide

/-- Three register numbers of the map at its edges, with bits above bit 7 ignored, and two that are unassigned. -/
theorem witness_NopAndRegisterReads :
    ((args 0x100 0 0 0).arg.arg0.toNat % 256, (0 : Word)) = (0x00, State.reset.res.status.zeroExtend 32) ∧
    ((args 0x34 0 0 0).arg.arg0.toNat % 256, (0 : Word)) = (0x34, State.reset.enc.ndgram) ∧
    ((args 0x60 0 0 0).arg.arg0.toNat % 256, (0 : Word)) = (0x60, toReg32 (.reg 0x60) State.reset.enc.pin.length) ∧
    (∀ a ∈ [0x05, 0x61, 0xFF], a ∉
      [0x00, 0x01, 0x02, 0x03, 0x04, 0x08, 0x09, 0x0A, 0x0B, 0x10, 0x11, 0x12, 0x20, 0x21, 0x22, 0x23, 0x24, 0x25, 0x26,
       0x27, 0x30, 0x31, 0x32, 0x33, 0x34, 0x40, 0x41, 0x42, 0x48, 0x49, 0x4A, 0x4B, 0x4C, 0x4D, 0x4E, 0x4F, 0x50, 0x60] ∧
      (args (BitVec.ofNat 32 a) 0 0 0).arg.arg0.toNat % 256 = a) := by decide

end Sys2Proof.Tests
end

section
/-!
PROOFS. The invariants of 10_state.md rule R51 in the decoder, the parser and the encoder's datagrams: what one section,
one IWP command, and a whole run of either keeps, and which datagrams the encoder makes.
-/

namespace Sys2Proof.Proofs

open Sys2Proof.Machine Sys2Proof.Safety

/-! ### Which instructions the host port can present -/

/-- The opcodes of rule R110 stand for host commands alone. -/
theorem decodeHost_isHostCommand {op : Byte} {now : Time} {i : Instr} (h : decodeHost op now = .ok i) :
    isHostCommand i = true := by
  unfold decodeHost at h
  split at h <;> cases h <;> rfl

theorem decode_issueUnit_isHostCommand {op : Byte} {now : Time} {i : Instr}
    (h : decode (issueUnit op now) = .ok i) : isHostCommand i = true := by
  simp only [issueUnit, decode] at h
  split at h
  case h_1 hd => cases h; exact decodeHost_isHostCommand hd
  case h_2 => cases h

/-! ### The decoder -/

/-- The decoder with DEC_NFRAMES brought up to date, as DECODE_ILDA leaves it when its loop has ended (rule R125). -/
def countFrames (d : DecoderUnit) : DecoderUnit := { d with nframes := toReg32 .decNframes d.fstore.length }

/-- A section read from bytes names its own format and holds no more records than its count (rules R90, R124). -/
theorem decodeSec_wellFormed {bs : List Byte} {x : Sec} (hx : decodeSec bs = .ok x) : x.toInstr.wellFormed = true := by
  have heads : ∀ (code : Byte) (rs : Nat), (readHeader bs).fmt.toNat = code.toNat →
      (readHeader bs).heads code (recordsPresent (readHeader bs) rs (bs.drop 32)) = true := fun code rs hcode =>
    decide_eq_true ⟨BitVec.eq_of_toNat_eq hcode, (recordsPresent_le _ _ _).1⟩
  obtain ⟨-, -, ⟨rfl, hf⟩ | ⟨rfl, hf⟩ | ⟨rfl, hf⟩ | ⟨rfl, hf⟩ | ⟨rfl, hf⟩⟩ := decodeSec_ok hx <;>
    simp only [Sec.toInstr, Instr.wellFormed, readRecords_length]
  · exact heads 0 8 hf
  · exact heads 1 6 hf
  · exact heads 2 3 hf
  · exact heads 4 10 hf
  · exact heads 5 8 hf

theorem pointSection_ibuf (d : DecoderUnit) (c : Config) (h : Header) (rs : Nat) (pts : List Point) :
    (d.pointSection c h rs pts).ibuf = d.ibuf := by
  obtain ⟨-, e⟩ | ⟨-, e⟩ := pointSection_cases d c h rs pts <;> rw [e]

@[simp] theorem runSec_ibuf (d : DecoderUnit) (c : Config) (x : Sec) : (d.runSec c x).ibuf = d.ibuf := by
  cases x with
  | fmt2 h recs => rfl
  | fmt0 h recs => exact pointSection_ibuf ..
  | fmt1 h recs => exact pointSection_ibuf ..
  | fmt4 h recs => exact pointSection_ibuf ..
  | fmt5 h recs => exact pointSection_ibuf ..

theorem stopWith_inv {c : Config} {d : DecoderUnit} {code : Byte} (hcode : code.toNat ≤ 5)
    (hd : DecoderInv c (countFrames d)) : DecoderInv c (countFrames (d.stopWith code)) :=
  ⟨rfl, hcode, hd.frames, hd.frameCap, hd.pointCap⟩

/-- The stop that passing a section of `n` records out of `count` leaves (rule R126). -/
theorem truncation_le (n count : Nat) {stop : Byte} (h : stop.toNat ≤ 5) :
    (if n < count then Status.decTruncated else stop).toNat ≤ 5 := by
  split
  · decide
  · exact h

/-- A point section keeps the decoder's invariant: the frame it stores is legal and was given room, and the stops it
leaves are DEC_TRUNCATED and DEC_CAPACITY (rules R126, R127, R129). -/
theorem pointSection_inv {c : Config} {d : DecoderUnit} {h : Header} {rs : Nat} {pts : List Point}
    (hd : DecoderInv c (countFrames d)) (hf : FrameOk ⟨h.fmt, h, pts⟩) :
    DecoderInv c (countFrames (d.pointSection c h rs pts)) := by
  obtain ⟨hroom, e⟩ | ⟨-, e⟩ := pointSection_cases d c h rs pts <;> rw [e]
  · rw [DecoderUnit.frameRoom, Bool.and_eq_true] at hroom
    have hframes : ∀ f ∈ d.fstore ++ [⟨h.fmt, h, pts⟩], FrameOk f := by
      intro f hmem
      obtain hold | hnew := List.mem_append.mp hmem
      · exact hd.frames f hold
      · exact List.mem_singleton.mp hnew ▸ hf
    exact ⟨rfl, truncation_le _ _ hd.stop, hframes, by simpa [countFrames] using hroom.1, by simpa [countFrames] using hroom.2⟩
  · exact stopWith_inv (code := Status.decCapacity) (by decide) hd

/-- A palette section stores no frame, and DEC_TRUNCATED is the one stop it leaves (rules R126, R133). -/
theorem fmt2_inv {c : Config} {d : DecoderUnit} (h : Header) (recs : List Rgb) (hd : DecoderInv c (countFrames d)) :
    DecoderInv c (countFrames (d.fmt2 h recs)) :=
  ⟨rfl, truncation_le _ _ hd.stop, hd.frames, hd.frameCap, hd.pointCap⟩

/-- A well-formed section of a point format makes a legal frame. -/
theorem frameOk_of_heads {h : Header} {code : Byte} {pts : List Point} (hh : h.heads code pts.length = true)
    (hcode : code = 0 ∨ code = 1 ∨ code = 4 ∨ code = 5) : FrameOk ⟨h.fmt, h, pts⟩ := by
  obtain ⟨rfl, hle⟩ := of_decide_eq_true hh
  exact ⟨hcode, rfl, hle⟩

theorem runSec_inv {c : Config} {d : DecoderUnit} {x : Sec} (hx : x.toInstr.wellFormed = true)
    (hd : DecoderInv c (countFrames d)) : DecoderInv c (countFrames (d.runSec c x)) := by
  cases x with
  | fmt2 h recs => exact fmt2_inv h recs hd
  | fmt0 h recs => exact pointSection_inv hd (frameOk_of_heads (code := 0) (by rwa [List.length_map]) (by decide))
  | fmt1 h recs => exact pointSection_inv hd (frameOk_of_heads (code := 1) (by rwa [List.length_map]) (by decide))
  | fmt4 h recs => exact pointSection_inv hd (frameOk_of_heads (code := 4) (by rwa [List.length_map]) (by decide))
  | fmt5 h recs => exact pointSection_inv hd (frameOk_of_heads (code := 5) (by rwa [List.length_map]) (by decide))

theorem ofSecReject_le (e : SecReject) : (Status.ofSecReject e).toNat ≤ 5 := by
  cases e <;> simp [Status.ofSecReject, Status.decEnd, Status.decBadMagic, Status.decUnsupportedFormat]

theorem startSession_inv (c : Config) (d : DecoderUnit) : DecoderInv c (countFrames d.startSession) :=
  ⟨rfl, Nat.zero_le _, nofun, admits_zero _, admits_zero _⟩

/-- A whole decode keeps IBUF and, from whatever state it starts, leaves a decoder that meets its invariant. -/
theorem decodeImage_inv (c : Config) (d : DecoderUnit) :
    (d.decodeImage c).ibuf = d.ibuf ∧ DecoderInv c (countFrames (d.decodeImage c)) := by
  refine decodeLoop_induction c
    (fun d' => d'.ibuf = d.ibuf ∧ DecoderInv c (countFrames d'))
    (fun d' => d'.ibuf = d.ibuf ∧ DecoderInv c (countFrames d')) ?runSection ?stop
    _ _ ⟨rfl, startSession_inv c d⟩ (Nat.zero_le _) rfl (by simp [DecoderUnit.startSession])
  case runSection =>
    intro d' x ⟨hib, hinv⟩ _ _ hx
    have hkeep := And.intro ((runSec_ibuf d' c x).trans hib) (runSec_inv (decodeSec_wellFormed hx) hinv)
    exact ⟨fun _ => hkeep, fun _ => hkeep⟩
  case stop =>
    intro d' e ⟨hib, hinv⟩ _ _ _
    exact ⟨hib, stopWith_inv (ofSecReject_le e) hinv⟩

/-! ### The parser -/

theorem runCmd_points_length_le (p : Packet) (c : RawCmd) : (p.runCmd c).points.length ≤ p.points.length + 1 := by
  cases c <;> simp [Packet.runCmd, Packet.cmdOff, Packet.cmdPeriod, Packet.cmdPt8, Packet.cmdPt16, Packet.take,
    Packet.addPoint]

/-- A command that lies inside the datagram keeps the packet's invariant: at most one point and at least one byte. -/
theorem runCmd_inv {p : Packet} {c : RawCmd} (hp : PacketInv p) (hc : p.endOff + c.length ≤ p.len) :
    PacketInv (p.runCmd c) where
  stop := by simpa using hp.stop
  endOff := by simpa using hc
  points := by
    have := runCmd_points_length_le p c
    have := hp.points
    simp; omega
  cmds := by
    have := c.length_pos
    have := hp.cmds
    simp; omega

theorem stoppedPacket_inv {p : Packet} (e : CmdReject) (hp : PacketInv p) :
    PacketInv { p with stop := Status.ofCmdReject e } :=
  ⟨by cases e <;> simp [Status.ofCmdReject], hp.endOff, hp.points, hp.cmds⟩

/-- The packet of any datagram meets its invariant (rules R175, R185). -/
theorem parseDatagram_inv (buf : List Byte) (now : Time) : PacketInv (parseDatagram buf now) := by
  refine parseLoop_induction buf (fun p => p.len = buf.length ∧ PacketInv p) PacketInv ?command ?stop
    _ _ ⟨rfl, .inl rfl, Nat.zero_le _, Nat.le_refl _, Nat.le_refl _⟩ (Nat.zero_le _) (by simp [Packet.initial])
  case command =>
    intro p c ⟨hlen, hp⟩ hoff hc
    have hin := decodeCmd_length hc
    rw [List.length_drop] at hin
    exact ⟨by simpa using hlen, runCmd_inv hp (by omega)⟩
  case stop =>
    intro p e ⟨_, hp⟩ _ _
    exact stoppedPacket_inv e hp

/-! ### Datagrams -/

/-- Every chunk of TX_PACK holds at least one whole record, for every TX_MAXDG (rules R108, R199). -/
theorem chunks_datagramOk {e : EncoderUnit} {d : List Byte} (hd : d ∈ e.chunks) : DatagramOk d := by
  obtain ⟨j, hj, rfl⟩ := List.mem_map.mp hd
  rw [List.mem_range, List.length_map] at hj
  have hlt := mul_lt_of_lt_ceilDiv hj
  have hper : e.perChunk ≠ 0 := by
    intro h0
    simp [h0, ceilDiv] at hj
  refine .inl ⟨(e.pin.drop (j * e.perChunk)).take e.perChunk, ?_, ?_⟩
  · simp only [ne_eq, List.take_eq_nil_iff, List.drop_eq_nil_iff, not_or]
    omega
  · rw [List.flatMap_def, List.map_take, List.map_drop]

theorem periodDatagram_datagramOk (v : Word) : DatagramOk (periodDatagram v) := .inr (.inl ⟨v, rfl⟩)

theorem offDatagram_datagramOk : DatagramOk offDatagram := .inr (.inr rfl)

theorem datagramOk_ne_nil {d : List Byte} (hd : DatagramOk d) : d ≠ [] := by
  obtain ⟨qs, hqs, rfl⟩ | ⟨v, rfl⟩ | rfl := hd
  · obtain ⟨q, qs, rfl⟩ := List.exists_cons_of_ne_nil hqs
    simp [encodePoint, encodeCmd]
  · simp
  · simp

end Sys2Proof.Proofs
end

section
/-!
PROOFS. What an instruction can do, said once: each unit changes in one of a few ways (`DecoderChange`, `ParserChange`,
`EncoderChange`, `SequencerChange`), and `exec_completes` ties the whole (`Effect`) to every instruction in every state.
-/

namespace Sys2Proof.Proofs

open Sys2Proof.Machine Sys2Proof.Safety

/-! ### What an instruction can do to each unit -/

/-- What instruction `i` can make of the decoder. Only an instruction of the section stream acts on one section. -/
inductive DecoderChange (i : Instr) (c : Config) (d : DecoderUnit) : DecoderUnit → Prop
  | kept : DecoderChange i c d d
  | oneSection (hi : isHostCommand i = false) (x : Sec) : DecoderChange i c d (d.runSec c x)
  | decoded : DecoderChange i c d (countFrames (d.decodeImage c))

/-- What instruction `i` can make of the parser. Only an instruction of the IWP stream acts on one command. -/
inductive ParserChange (i : Instr) (p : ParserUnit) : ParserUnit → Prop
  | kept : ParserChange i p p
  | command (hi : isHostCommand i = false) (c : RawCmd) : ParserChange i p { p with pkt := p.pkt.runCmd c }
  | empty : ParserChange i p { p with received := p.received + 1, invalid := p.invalid + 1 }
  | parsed (now : Time) : ParserChange i p
      { p with received := p.received + 1, valid := p.valid + 1, pkt := parseDatagram p.rbuf now }

/-- What an instruction can make of the encoder, with the test each write stands behind. -/
inductive EncoderChange (c : Config) (e : EncoderUnit) : EncoderUnit → Prop
  | kept : EncoderChange c e e
  | pinLoaded (pts : List Point) (room : c.pinSize.admits pts.length = true) :
      EncoderChange c e { e with pin := pts.map toWire }
  | maxdgSet (v : Half) (legal : 11 ≤ v.toNat) : EncoderChange c e { e with maxdg := v }
  | rateSet (hz : Word) : EncoderChange c e (e.setRate hz)
  | periodSent (hz : Word) (session : Bool) (room : c.txqCap.admits (e.txq.length + 1) = true) :
      EncoderChange c e { (e.setRate hz).emit (periodDatagram (periodUs hz)) with session := session }
  | packed (room : c.txqCap.admits (e.txq.length + e.chunks.length) = true) : EncoderChange c e (e.emitAll e.chunks)
  | closed : EncoderChange c e { e with session := false }
  | offSent (room : c.txqCap.admits (e.txq.length + 1) = true) :
      EncoderChange c e ({ e with session := false }.emit offDatagram)

/-- What an instruction can make of the sequencer, `fs` being the frame store. -/
inductive SequencerChange (fs : List Frame) (q : SequencerUnit) : SequencerUnit → Prop
  | kept : SequencerChange fs q q
  | loaded : SequencerChange fs q
      { q with flist := fs, n := toReg32 .seqN fs.length, index := 0, state := .stopped }
  | stateSet (st : PlayState) (last : Time) : SequencerChange fs q { q with state := st, last := last }
  | stopped : SequencerChange fs q { q with state := .stopped, index := 0 }
  | advanced (hn : 1 ≤ q.n.toNat) (last : Time) : SequencerChange fs q { q.adv with last := last }
  | movedBack (hn : 1 ≤ q.n.toNat) : SequencerChange fs q
      { q with index := BitVec.ofNat 32 ((q.index.toNat + q.n.toNat - 1) % q.n.toNat) }
  | loopSet (l : Bool) : SequencerChange fs q { q with loop := l }
  | fpsSet (v : Nat) : SequencerChange fs q { q with fps := BitVec.ofNat 32 (clamp v fpsMin fpsMax) }
  | speedSet (v : Nat) : SequencerChange fs q { q with speed := BitVec.ofNat 32 (clamp v speedMin speedMax) }

/-- Everything an instruction can do: the host's side is kept, a host command ends with a code of rule R270, and each
unit changes in one of the ways above. -/
structure Effect (i : Instr) (s t : State) : Prop where
  arg : t.arg = s.arg
  cfg : t.cfg = s.cfg
  port : t.port = s.port
  answer : t.answer = s.answer
  status : isHostCommand i = true → t.res.status ∈ Status.all
  dec : DecoderChange i s.cfg s.dec t.dec
  prs : ParserChange i s.prs t.prs
  enc : EncoderChange s.cfg s.enc t.enc
  seq : SequencerChange s.dec.fstore s.seq t.seq

section
variable {i : Instr} {s : State} {r : ResultRegs}

/-- The result registers alone are written. -/
theorem Effect.ofResults (hr : r.status ∈ Status.all) : Effect i s { s with res := r } :=
  ⟨rfl, rfl, rfl, rfl, fun _ => hr, .kept, .kept, .kept, .kept⟩

/-- A host command writes the decoder and the result registers. -/
theorem Effect.ofDecoder {d : DecoderUnit} (hd : DecoderChange i s.cfg s.dec d) (hr : r.status ∈ Status.all) :
    Effect i s { s with dec := d, res := r } :=
  ⟨rfl, rfl, rfl, rfl, fun _ => hr, hd, .kept, .kept, .kept⟩

/-- A host command writes the parser and the result registers. -/
theorem Effect.ofParser {p : ParserUnit} (hp : ParserChange i s.prs p) (hr : r.status ∈ Status.all) :
    Effect i s { s with prs := p, res := r } :=
  ⟨rfl, rfl, rfl, rfl, fun _ => hr, .kept, hp, .kept, .kept⟩

/-- A host command writes the encoder and the result registers. -/
theorem Effect.ofEncoder {e : EncoderUnit} (he : EncoderChange s.cfg s.enc e) (hr : r.status ∈ Status.all) :
    Effect i s { s with enc := e, res := r } :=
  ⟨rfl, rfl, rfl, rfl, fun _ => hr, .kept, .kept, he, .kept⟩

/-- A host command writes the sequencer and the result registers. -/
theorem Effect.ofSequencer {q : SequencerUnit} (hq : SequencerChange s.dec.fstore s.seq q)
    (hr : r.status ∈ Status.all) : Effect i s { s with seq := q, res := r } :=
  ⟨rfl, rfl, rfl, rfl, fun _ => hr, .kept, .kept, .kept, hq⟩

/-- An instruction of the section stream runs one section and writes no STATUS. -/
theorem Effect.ofSection (hi : isHostCommand i = false) (x : Sec) :
    Effect i s (s.withDec (s.dec.runSec s.cfg x)) :=
  ⟨rfl, rfl, rfl, rfl, fun h => absurd (hi.symm.trans h) (by decide), .oneSection hi x, .kept, .kept, .kept⟩

/-- An instruction of the IWP stream runs one command and writes no STATUS. -/
theorem Effect.ofCmd (hi : isHostCommand i = false) (c : RawCmd) : Effect i s (s.withPkt (s.prs.pkt.runCmd c)) :=
  ⟨rfl, rfl, rfl, rfl, fun h => absurd (hi.symm.trans h) (by decide), .kept, .command hi c, .kept, .kept⟩

end

/-! ### Codes of rule R270 -/

theorem ok_mem : Status.ok ∈ Status.all := by decide
theorem badArg_mem : Status.badArg ∈ Status.all := by decide
theorem noFrame_mem : Status.noFrame ∈ Status.all := by decide
theorem txCapacity_mem : Status.txCapacity ∈ Status.all := by decide
theorem txNoSession_mem : Status.txNoSession ∈ Status.all := by decide
theorem refused_mem : Status.refused ∈ Status.all := by decide
theorem parseEmpty_mem : Status.parseEmpty ∈ Status.all := by decide

theorem decoderInv_stop_mem {c : Config} {d : DecoderUnit} (hd : DecoderInv c d) : d.stop ∈ Status.all := by
  have codes : ∀ n : Fin 6, BitVec.ofNat 8 n ∈ Status.all := by decide
  simpa using codes ⟨d.stop.toNat, Nat.lt_succ_of_le hd.stop⟩

theorem packetInv_stop_mem {p : Packet} (hp : PacketInv p) : p.stop ∈ Status.all := by
  obtain h | h | h | h := hp.stop <;> rw [h] <;> decide

/-! ### The effect of each command -/

theorem execDecodeIlda_effect (s : State) : ∃ t, execDecodeIlda s = .next t ∧ Effect .decodeIlda s t :=
  ⟨_, rfl, .ofDecoder .decoded (decoderInv_stop_mem (d := countFrames _) (decodeImage_inv s.cfg s.dec).2)⟩

theorem execParseIwp_effect (now : Time) (s : State) :
    ∃ t, execParseIwp now s = .next t ∧ Effect (.parseIwp now) s t := by
  unfold execParseIwp
  split
  · exact ⟨_, rfl, .ofParser .empty parseEmpty_mem⟩
  · exact ⟨_, rfl, .ofParser (.parsed now) (packetInv_stop_mem (parseDatagram_inv s.prs.rbuf now))⟩

theorem execXfW2s_effect (s : State) : ∃ t, execXfW2s s = .next t ∧ Effect .xfW2s s t := by
  unfold execXfW2s
  dsimp only
  split
  · exact ⟨_, rfl, .ofResults badArg_mem⟩
  · exact ⟨_, rfl, .ofResults ok_mem⟩

theorem execXfFrame_effect (s : State) : ∃ t, execXfFrame s = .next t ∧ Effect .xfFrame s t := by
  unfold execXfFrame
  split
  · exact ⟨_, rfl, .ofResults noFrame_mem⟩
  split
  · exact ⟨_, rfl, .ofResults noFrame_mem⟩
  split
  · next room => exact ⟨_, rfl, .ofEncoder (.pinLoaded _ room) ok_mem⟩
  · exact ⟨_, rfl, .ofResults txCapacity_mem⟩

theorem execXfCurrent_effect (s : State) : ∃ t, execXfCurrent s = .next t ∧ Effect .xfCurrent s t := by
  unfold execXfCurrent
  split
  · exact ⟨_, rfl, .ofResults noFrame_mem⟩
  split
  · exact ⟨_, rfl, .ofResults noFrame_mem⟩
  split
  · next room => exact ⟨_, rfl, .ofEncoder (.pinLoaded _ room) ok_mem⟩
  · exact ⟨_, rfl, .ofResults txCapacity_mem⟩

theorem execTxOpen_effect (s : State) : ∃ t, execTxOpen s = .next t ∧ Effect .txOpen s t := by
  unfold execTxOpen
  split
  · next room => exact ⟨_, rfl, .ofEncoder (.periodSent s.arg.arg0 true room) ok_mem⟩
  · exact ⟨_, rfl, .ofResults txCapacity_mem⟩

theorem execTxSetRate_effect (s : State) : ∃ t, execTxSetRate s = .next t ∧ Effect .txSetRate s t := by
  unfold execTxSetRate
  split
  · exact ⟨_, rfl, .ofResults txCapacity_mem⟩
  · next hroom =>
    refine ⟨_, rfl, .ofEncoder ?_ ok_mem⟩
    cases hs : s.enc.session with
    | false =>
      rw [if_neg (by simp [EncoderUnit.setRate, hs])]
      exact .rateSet s.arg.arg0
    | true =>
      rw [if_pos (by simp [EncoderUnit.setRate, hs])]
      exact .periodSent s.arg.arg0 s.enc.session (by simpa [hs, State.txRoom] using hroom)

theorem execTxPack_effect (s : State) : ∃ t, execTxPack s = .next t ∧ Effect .txPack s t := by
  unfold execTxPack
  split
  · exact ⟨_, rfl, .ofResults txNoSession_mem⟩
  split
  · next room => exact ⟨_, rfl, .ofEncoder (.packed room) ok_mem⟩
  · exact ⟨_, rfl, .ofResults txCapacity_mem⟩

theorem execTxClose_effect (s : State) : ∃ t, execTxClose s = .next t ∧ Effect .txClose s t := by
  unfold execTxClose
  split
  · exact ⟨_, rfl, .ofResults ok_mem⟩
  split
  · next room => exact ⟨_, rfl, .ofEncoder (.offSent room) ok_mem⟩
  · exact ⟨_, rfl, .ofEncoder .closed txCapacity_mem⟩

theorem lowHalf_maxdg_legal {v : Word} (h : maxdgMin ≤ v.toNat ∧ v.toNat ≤ maxdgMax) : 11 ≤ (lowHalf v).toNat := by
  simp only [maxdgMin, maxdgMax] at h
  rw [lowHalf_toNat]
  omega

theorem execTxSetMaxdg_effect (s : State) : ∃ t, execTxSetMaxdg s = .next t ∧ Effect .txSetMaxdg s t := by
  unfold execTxSetMaxdg
  split
  · next legal => exact ⟨_, rfl, .ofEncoder (.maxdgSet _ (lowHalf_maxdg_legal legal)) ok_mem⟩
  · exact ⟨_, rfl, .ofResults badArg_mem⟩

theorem execSeqPlay_effect (now : Time) (s : State) : ∃ t, execSeqPlay now s = .next t ∧ Effect (.seqPlay now) s t := by
  refine ⟨_, rfl, .ofSequencer ?_ ok_mem⟩
  split
  · exact .kept
  · exact .stateSet .playing now

theorem execSeqPause_effect (s : State) : ∃ t, execSeqPause s = .next t ∧ Effect .seqPause s t := by
  refine ⟨_, rfl, .ofSequencer ?_ ok_mem⟩
  split
  · exact .stateSet .paused s.seq.last
  · exact .kept

theorem execSeqUpdate_effect (now : Time) (s : State) :
    ∃ t, execSeqUpdate now s = .next t ∧ Effect (.seqUpdate now) s t := by
  refine ⟨_, rfl, .ofSequencer ?_ ok_mem⟩
  split
  · next hadv =>
    obtain ⟨-, hn, -⟩ := (advances_iff _ _).mp hadv
    exact .advanced hn now
  · exact .kept

theorem execSeqNext_effect (s : State) : ∃ t, execSeqNext s = .next t ∧ Effect .seqNext s t := by
  refine ⟨_, rfl, .ofSequencer ?_ ok_mem⟩
  split
  · next hn => exact .advanced hn s.seq.adv.last
  · exact .kept

theorem execSeqPrev_effect (s : State) : ∃ t, execSeqPrev s = .next t ∧ Effect .seqPrev s t := by
  refine ⟨_, rfl, .ofSequencer ?_ ok_mem⟩
  split
  · next hn => exact .movedBack hn
  · exact .kept

theorem execRdReg_effect (s : State) : ∃ t, execRdReg s = .next t ∧ Effect .rdReg s t := by
  unfold execRdReg
  split
  · exact ⟨_, rfl, .ofResults ok_mem⟩
  · exact ⟨_, rfl, .ofResults badArg_mem⟩

/-- Every instruction completes, in every state, with one of the effects above (45_host_misc.md rule R266). -/
theorem exec_completes (i : Instr) (s : State) : ∃ t, exec i s = .next t ∧ Effect i s t := by
  cases i with
  | ildaFmt0 h recs => exact ⟨_, rfl, .ofSection rfl (.fmt0 h recs)⟩
  | ildaFmt1 h recs => exact ⟨_, rfl, .ofSection rfl (.fmt1 h recs)⟩
  | ildaFmt2 h recs => exact ⟨_, rfl, .ofSection rfl (.fmt2 h recs)⟩
  | ildaFmt4 h recs => exact ⟨_, rfl, .ofSection rfl (.fmt4 h recs)⟩
  | ildaFmt5 h recs => exact ⟨_, rfl, .ofSection rfl (.fmt5 h recs)⟩
  | iwpOff => exact ⟨_, rfl, .ofCmd rfl .off⟩
  | iwpPeriod v => exact ⟨_, rfl, .ofCmd rfl (.period v)⟩
  | iwpPt8 x y r g b => exact ⟨_, rfl, .ofCmd rfl (.pt8 x y r g b)⟩
  | iwpPt16 x y r g b => exact ⟨_, rfl, .ofCmd rfl (.pt16 x y r g b)⟩
  | nop => exact ⟨_, rfl, .ofResults ok_mem⟩
  | decodeIlda => exact execDecodeIlda_effect s
  | xfI2w => exact ⟨_, rfl, .ofResults ok_mem⟩
  | xfW2i => exact ⟨_, rfl, .ofResults ok_mem⟩
  | xfW2s => exact execXfW2s_effect s
  | xfExp => exact ⟨_, rfl, .ofResults ok_mem⟩
  | xfNar => exact ⟨_, rfl, .ofResults ok_mem⟩
  | xfWcol => exact ⟨_, rfl, .ofResults ok_mem⟩
  | xfFrame => exact execXfFrame_effect s
  | xfCurrent => exact execXfCurrent_effect s
  | parseIwp now => exact execParseIwp_effect now s
  | txOpen => exact execTxOpen_effect s
  | txSetRate => exact execTxSetRate_effect s
  | txPack => exact execTxPack_effect s
  | txClose => exact execTxClose_effect s
  | txSetMaxdg => exact execTxSetMaxdg_effect s
  | seqLoad => exact ⟨_, rfl, .ofSequencer .loaded ok_mem⟩
  | seqPlay now => exact execSeqPlay_effect now s
  | seqPause => exact execSeqPause_effect s
  | seqStop => exact ⟨_, rfl, .ofSequencer .stopped ok_mem⟩
  | seqUpdate now => exact execSeqUpdate_effect now s
  | seqNext => exact execSeqNext_effect s
  | seqPrev => exact execSeqPrev_effect s
  | seqSetFps => exact ⟨_, rfl, .ofSequencer (.fpsSet s.arg.arg0.toNat) ok_mem⟩
  | seqSetSpeed => exact ⟨_, rfl, .ofSequencer (.speedSet s.arg.arg0.toNat) ok_mem⟩
  | seqSetLoop => exact ⟨_, rfl, .ofSequencer (.loopSet (lowBit s.arg.arg0)) ok_mem⟩
  | seqSnapshot => exact ⟨_, rfl, .ofResults ok_mem⟩
  | rdReg => exact execRdReg_effect s

theorem exec_effect {i : Instr} {s t : State} (h : exec i s = .next t) : Effect i s t := by
  obtain ⟨t', ht', he⟩ := exec_completes i s
  cases h.symm.trans ht'
  exact he

end Sys2Proof.Proofs
end

section
/-!
PROOFS (10_state.md). What those changes keep: the invariant of rule R51, the growth of TXQ (rule R38), the host's inputs
(rule R22); and the reset state.
-/

namespace Sys2Proof.Proofs

open Sys2Proof.Machine Sys2Proof.Safety

/-! ### What the changes keep -/

theorem DecoderChange.ibuf_eq {i : Instr} {c : Config} {d d' : DecoderUnit} (h : DecoderChange i c d d') :
    d'.ibuf = d.ibuf := by
  cases h with
  | kept => rfl
  | oneSection _ x => exact runSec_ibuf d c x
  | decoded => exact (decodeImage_inv c d).1

/-- A host command keeps the decoder's invariant. One section alone would not: DEC_NFRAMES is written at the end of
DECODE_ILDA. -/
theorem DecoderChange.keeps_inv {i : Instr} {c : Config} {d d' : DecoderUnit} (h : DecoderChange i c d d')
    (hi : isHostCommand i = true) (hd : DecoderInv c d) : DecoderInv c d' := by
  cases h with
  | kept => exact hd
  | oneSection hn => exact absurd (hn.symm.trans hi) (by decide)
  | decoded => exact (decodeImage_inv c d).2

theorem ParserChange.rbuf_eq {i : Instr} {p p' : ParserUnit} (h : ParserChange i p p') : p'.rbuf = p.rbuf := by
  cases h <;> rfl

theorem ParserChange.keeps_inv {i : Instr} {p p' : ParserUnit} (h : ParserChange i p p')
    (hi : isHostCommand i = true) (hp : PacketInv p.pkt) : PacketInv p'.pkt := by
  cases h with
  | kept => exact hp
  | command hn => exact absurd (hn.symm.trans hi) (by decide)
  | empty => exact hp
  | parsed now => exact parseDatagram_inv p.rbuf now

/-- `e'` has the datagrams `ds` at the end of its TXQ, which fits its capacity still, and has counted them. -/
structure Appends (c : Config) (e e' : EncoderUnit) (ds : List (List Byte)) : Prop where
  txq : e'.txq = e.txq ++ ds
  ndgram : e'.ndgram = e.ndgram + BitVec.ofNat 32 ds.length
  legal : ∀ d ∈ ds, DatagramOk d
  fits : c.txqCap.admits e.txq.length = true → c.txqCap.admits e'.txq.length = true

theorem Appends.none {c : Config} {e e' : EncoderUnit} (ht : e'.txq = e.txq) (hn : e'.ndgram = e.ndgram) :
    Appends c e e' [] :=
  ⟨by simpa using ht, by simpa using hn, nofun, fun hc => ht ▸ hc⟩

theorem Appends.one {c : Config} {e e' : EncoderUnit} {d : List Byte} (ht : e'.txq = e.txq ++ [d])
    (hn : e'.ndgram = e.ndgram + 1) (hd : DatagramOk d) (room : c.txqCap.admits (e.txq.length + 1) = true) :
    Appends c e e' [d] :=
  ⟨ht, hn, by simpa using hd, fun _ => by simpa [ht] using room⟩

theorem Appends.chunks {c : Config} {e : EncoderUnit} (room : c.txqCap.admits (e.txq.length + e.chunks.length) = true) :
    Appends c e (e.emitAll e.chunks) e.chunks := by
  rw [emitAll_eq]
  exact ⟨rfl, rfl, fun _ => chunks_datagramOk, fun _ => by simpa using room⟩

/-- An instruction appends to TXQ at most, and only legal datagrams (rules R38, R66, R108). -/
theorem EncoderChange.appends {c : Config} {e e' : EncoderUnit} (h : EncoderChange c e e') :
    ∃ ds, Appends c e e' ds := by
  cases h with
  | kept => exact ⟨_, .none rfl rfl⟩
  | pinLoaded => exact ⟨_, .none rfl rfl⟩
  | maxdgSet => exact ⟨_, .none rfl rfl⟩
  | rateSet => exact ⟨_, .none rfl rfl⟩
  | closed => exact ⟨_, .none rfl rfl⟩
  | periodSent hz session room => exact ⟨_, .one rfl rfl (periodDatagram_datagramOk _) room⟩
  | offSent room => exact ⟨_, .one rfl rfl offDatagram_datagramOk room⟩
  | packed room => exact ⟨_, .chunks room⟩

/-- The encoder's invariant for an encoder whose TXQ came about by appending. -/
theorem Appends.keeps_inv {c : Config} {e e' : EncoderUnit} {ds : List (List Byte)} (h : Appends c e e' ds)
    (he : EncoderInv c e) (hmax : 11 ≤ e'.maxdg.toNat) (hper : e'.period = periodUs e'.scanHz)
    (hpin : c.pinSize.admits e'.pin.length = true) : EncoderInv c e' := by
  refine ⟨hmax, hper, hpin, h.fits he.txqCap, fun d hd => ?_⟩
  rw [h.txq, List.mem_append] at hd
  exact hd.elim (he.datagrams d) (h.legal d)

/-- Every instruction keeps the encoder's invariant: TX_MAXDG is set to legal values, the period with the scan rate,
PIN within its size. -/
theorem EncoderChange.keeps_inv {c : Config} {e e' : EncoderUnit} (h : EncoderChange c e e') (he : EncoderInv c e) :
    EncoderInv c e' := by
  obtain ⟨ds, happ⟩ := h.appends
  cases h with
  | kept => exact he
  | pinLoaded pts room => exact happ.keeps_inv he he.maxdg he.period (by simpa using room)
  | maxdgSet v legal => exact happ.keeps_inv he legal he.period he.pinCap
  | rateSet => exact happ.keeps_inv he he.maxdg rfl he.pinCap
  | closed => exact happ.keeps_inv he he.maxdg he.period he.pinCap
  | periodSent => exact happ.keeps_inv he he.maxdg rfl he.pinCap
  | offSent => exact happ.keeps_inv he he.maxdg he.period he.pinCap
  | packed =>
    rw [emitAll_eq] at happ ⊢
    exact happ.keeps_inv he he.maxdg he.period he.pinCap

/-- A clamped value keeps its bounds in a 32-bit register. -/
theorem clamp_register_bounds {v lo hi : Nat} (hle : lo ≤ hi) (hhi : hi < 4294967296) :
    lo ≤ (BitVec.ofNat 32 (clamp v lo hi)).toNat ∧ (BitVec.ofNat 32 (clamp v lo hi)).toNat ≤ hi := by
  have hb := clamp_bounds (v := v) hle
  rw [BitVec.toNat_ofNat, Nat.mod_eq_of_lt (by omega)]
  exact hb

/-- `adv()` writes SEQ_INDEX and SEQ_STATE at most (rule R230). -/
theorem adv_frame (q : SequencerUnit) : ∃ index state, q.adv = { q with index := index, state := state } := by
  obtain ⟨-, e⟩ | ⟨-, -, e⟩ | ⟨-, -, e⟩ := adv_cases q
  · exact ⟨_, q.state, e⟩
  · exact ⟨_, q.state, e⟩
  · exact ⟨_, _, e⟩

/-- Where index 0 stands, the index is legal for every SEQ_N. -/
theorem index_zero_legal (n : Word) : (n = 0 ∧ (0 : Word) = 0) ∨ (0 : Word).toNat < n.toNat := by
  by_cases hn : n = 0
  · exact .inl ⟨hn, rfl⟩
  · refine .inr (Nat.pos_of_ne_zero fun h0 => hn (BitVec.eq_of_toNat_eq h0))

/-- Every instruction keeps the sequencer's invariant, whatever legal frames SEQ_LOAD copies. -/
theorem SequencerChange.keeps_inv {fs : List Frame} {q q' : SequencerUnit} (h : SequencerChange fs q q')
    (hfs : ∀ f ∈ fs, FrameOk f) (hq : SequencerInv q) : SequencerInv q' := by
  cases h with
  | kept => exact hq
  | loaded => exact ⟨rfl, index_zero_legal _, hq.fps, hq.speed, hfs⟩
  | stateSet st last => exact ⟨hq.count, hq.index, hq.fps, hq.speed, hq.frames⟩
  | stopped => exact ⟨hq.count, index_zero_legal _, hq.fps, hq.speed, hq.frames⟩
  | loopSet l => exact ⟨hq.count, hq.index, hq.fps, hq.speed, hq.frames⟩
  | fpsSet v => exact ⟨hq.count, hq.index, clamp_register_bounds (by decide) (by decide), hq.speed, hq.frames⟩
  | speedSet v => exact ⟨hq.count, hq.index, hq.fps, clamp_register_bounds (by decide) (by decide), hq.frames⟩
  | movedBack hn =>
    have hlt := Nat.mod_lt (q.index.toNat + q.n.toNat - 1) hn
    have hindex : (BitVec.ofNat 32 ((q.index.toNat + q.n.toNat - 1) % q.n.toNat)).toNat < q.n.toNat := by
      rw [BitVec.toNat_ofNat]
      exact Nat.lt_of_le_of_lt (Nat.mod_le _ _) hlt
    exact ⟨hq.count, .inr hindex, hq.fps, hq.speed, hq.frames⟩
  | advanced hn last =>
    have hindex := adv_index_lt q hn
    obtain ⟨index, state, e⟩ := adv_frame q
    rw [e] at hindex ⊢
    exact ⟨hq.count, .inr hindex, hq.fps, hq.speed, hq.frames⟩

/-! ### The invariant of rule R51 -/

/-- The memories fit where the two buffers of the host and the units do: the other sizes of rule R60 are clauses of the
units' invariants. -/
theorem inv_of_units {s : State} (hst : s.res.status ∈ Status.all)
    (hib : s.cfg.ibufSize.admits s.dec.ibuf.length = true) (hrb : s.cfg.rbufSize.admits s.prs.rbuf.length = true)
    (hdec : DecoderInv s.cfg s.dec) (hpkt : PacketInv s.prs.pkt) (henc : EncoderInv s.cfg s.enc)
    (hseq : SequencerInv s.seq) : Inv s :=
  ⟨hst, (memory_wf_iff s).mpr ⟨hib, hrb, henc.pinCap, hdec.frameCap, hdec.pointCap, henc.txqCap⟩, hdec, hpkt, henc,
    hseq⟩

/-- Every host command keeps the invariant. -/
theorem exec_keeps_inv {i : Instr} {s t : State} (hi : isHostCommand i = true) (hs : Inv s)
    (h : exec i s = .next t) : Inv t := by
  have he := exec_effect h
  obtain ⟨hib, hrb, -⟩ := (memory_wf_iff s).mp hs.memory
  have hdec := he.dec.keeps_inv hi hs.dec
  have henc := he.enc.keeps_inv hs.enc
  rw [← he.cfg] at hib hrb hdec henc
  rw [← he.dec.ibuf_eq] at hib
  rw [← he.prs.rbuf_eq] at hrb
  exact inv_of_units (he.status hi) hib hrb hdec (he.prs.keeps_inv hi hs.pkt) henc
    (he.seq.keeps_inv hs.dec.frames hs.seq)

theorem issue_keeps_inv {op : Byte} {now : Time} {s t : State} (hs : Inv s) (h : issue op now s = .next t) : Inv t := by
  unfold issue at h
  split at h
  case h_1 hd => exact exec_keeps_inv (decode_issueUnit_isHostCommand hd) hs h
  case h_2 =>
    cases h
    exact ⟨refused_mem, hs.memory, hs.dec, hs.pkt, hs.enc, hs.seq⟩

/-- A write of PIN that fits keeps the encoder's invariant. -/
theorem writePin_keeps_inv {pts : List WirePoint} {s t : State} (hs : Inv s) (h : writePin pts s = .next t) : Inv t := by
  have hmem := writePin_memory_wf hs.memory h
  unfold writePin at h
  split at h
  · next room =>
    cases h
    exact ⟨hs.status, hmem, hs.dec, hs.pkt,
      ⟨hs.enc.maxdg, hs.enc.period, room, hs.enc.txqCap, hs.enc.datagrams⟩, hs.seq⟩
  · cases h

theorem writeIbuf_keeps_inv {bytes : List Byte} {s t : State} (hs : Inv s) (h : writeIbuf bytes s = .next t) :
    Inv t := by
  have hmem := writeIbuf_memory_wf hs.memory h
  unfold writeIbuf at h
  split at h
  · cases h
    exact ⟨hs.status, hmem, ⟨hs.dec.nframes, hs.dec.stop, hs.dec.frames, hs.dec.frameCap, hs.dec.pointCap⟩, hs.pkt,
      hs.enc, hs.seq⟩
  · cases h

theorem writeRbuf_keeps_inv {bytes : List Byte} {s t : State} (hs : Inv s) (h : writeRbuf bytes s = .next t) :
    Inv t := by
  have hmem := writeRbuf_memory_wf hs.memory h
  unfold writeRbuf at h
  split at h
  · cases h
    exact ⟨hs.status, hmem, hs.dec, hs.pkt, hs.enc, hs.seq⟩
  · cases h

theorem hostStep_keeps_inv {a : HostStep} {s t : State} (hs : Inv s) (h : hostStep a s = .next t) : Inv t := by
  cases a with
  | issue op now => exact issue_keeps_inv hs h
  | writeIbuf bytes => exact writeIbuf_keeps_inv hs h
  | writeRbuf bytes => exact writeRbuf_keeps_inv hs h
  | writePin pts => exact writePin_keeps_inv hs h
  | writeArg i v =>
    cases h
    exact ⟨hs.status, hs.memory, hs.dec, hs.pkt, hs.enc, hs.seq⟩
  | read p =>
    cases h
    exact ⟨hs.status, hs.memory, hs.dec, hs.pkt, hs.enc, hs.seq⟩

/-- The block waits, or makes the host's next step with that step taken from the port. -/
theorem step_cases {s t : State} (h : step s = .next t) :
    (s.port = [] ∧ t = s) ∨ ∃ a rest, s.port = a :: rest ∧ hostStep a { s with port := rest } = .next t := by
  cases hp : s.port with
  | nil =>
    simp only [step, fetch, hp] at h
    cases h
    exact .inl ⟨rfl, rfl⟩
  | cons a rest =>
    simp only [step, fetch, hp] at h
    exact .inr ⟨a, rest, rfl, h⟩

/-! ### The obligations -/

/-- Settles O14: each unit keeps its own part of the invariant, by cases on the host's step and on the command's
effect. -/
theorem stepKeepsInvariant : Obligations.StepKeepsInvariant := by
  intro s t hs h
  obtain ⟨-, rfl⟩ | ⟨a, rest, -, ha⟩ := step_cases h
  · exact hs
  · have hs' : Inv { s with port := rest } := ⟨hs.status, hs.memory, hs.dec, hs.pkt, hs.enc, hs.seq⟩
    exact hostStep_keeps_inv hs' ha

/-- Settles O16: the encoder's change appends legal datagrams, and a legal datagram is not empty. -/
theorem transmitStreamOnlyGrows : Obligations.TransmitStreamOnlyGrows := by
  intro i s t h
  obtain ⟨ds, happ⟩ := (exec_effect h).enc.appends
  exact ⟨ds, happ.txq, fun d hd => datagramOk_ne_nil (happ.legal d hd), happ.ndgram⟩

/-- Settles O17: the clauses of `Effect` about the host's side. -/
theorem commandsLeaveHostInputsAlone : Obligations.CommandsLeaveHostInputsAlone := by
  intro i s t h
  have he := exec_effect h
  exact ⟨he.arg, he.dec.ibuf_eq, he.prs.rbuf_eq, he.cfg, he.port, he.answer⟩

/-- Under the invariant every index below SEQ_N is one of SEQ_FLIST, also where the count does not fit SEQ_N: an index
is a 32-bit value. -/
theorem index_lt_flist_length {q : SequencerUnit} (hq : SequencerInv q) {i : Word} (hi : i.toNat < q.n.toNat) :
    i.toNat < q.flist.length := by
  obtain ⟨-, hn⟩ | hbig := toReg32_cases .seqN q.flist.length
  · rwa [hq.count, hn] at hi
  · have := i.isLt
    omega

/-- Settles O42: SEQ_INDEX is below SEQ_N where SEQ_N is not 0, and an index below SEQ_N is one of the list. -/
theorem namedFramesExist : Obligations.NamedFramesExist := by
  intro s hq
  have named : ∀ i : Word, i.toNat < s.seq.n.toNat → ∃ f, s.seq.flist[i.toNat]? = some f := fun i hi =>
    ⟨_, List.getElem?_eq_getElem (index_lt_flist_length hq hi)⟩
  refine ⟨named, fun hn => ?_⟩
  obtain ⟨h0, -⟩ | hlt := hq.index
  · exact absurd h0 hn
  · exact named _ hlt

/-- Settles O13: every memory is empty, and the reset parameters are the legal SEQ_FPS and SEQ_SPEED. -/
theorem resetMeetsInvariant : Obligations.ResetMeetsInvariant := by
  intro c hc
  obtain ⟨hf, hf', hs, hs'⟩ := of_decide_eq_true hc
  have hdec : DecoderInv c (State.resetWith c).dec := ⟨rfl, Nat.zero_le _, nofun, admits_zero _, admits_zero _⟩
  have hpkt : PacketInv Packet.initial := ⟨.inl rfl, Nat.le_refl _, Nat.le_refl _, Nat.le_refl _⟩
  have henc : EncoderInv c (State.resetWith c).enc :=
    ⟨(by decide : 11 ≤ (1023 : Half).toNat), rfl, admits_zero _, admits_zero _, nofun⟩
  have hseq : SequencerInv (State.resetWith c).seq := ⟨rfl, .inl ⟨rfl, rfl⟩, ⟨hf, hf'⟩, ⟨hs, hs'⟩, nofun⟩
  exact ⟨inv_of_units ok_mem (admits_zero _) (admits_zero _) hdec hpkt henc hseq, false, rfl, nofun⟩

end Sys2Proof.Proofs
end

section
/-!
PROOFS (20_memory.md). The host's steps (rules R60 to R65, R71, R76): what each of them does, when a step stops, what a
read answers. The units that the commands of each context write (rule R77). DECODE_ILDA issued twice (rule R72).
-/

namespace Sys2Proof.Proofs

open Sys2Proof.Machine Sys2Proof.Safety

/-! ### The step -/

theorem step_of_port_nil {s : State} (hp : s.port = []) : step s = .next s := by
  simp only [step, fetch, hp]

theorem step_of_port_cons {s : State} {a : HostStep} {rest : List HostStep} (hp : s.port = a :: rest) :
    step s = hostStep a { s with port := rest } := by
  simp only [step, fetch, hp]

/-! ### Host writes -/

theorem writeIbuf_of_admits {bytes : List Byte} {s : State} (h : s.cfg.ibufSize.admits bytes.length = true) :
    writeIbuf bytes s = .next (s.withDec { s.dec with ibuf := bytes }) := if_pos h

theorem writeIbuf_of_not_admits {bytes : List Byte} {s : State} (h : s.cfg.ibufSize.admits bytes.length = false) :
    writeIbuf bytes s = .fault (.hostWriteOverCapacity .ibuf) := if_neg (by simp [h])

theorem writeRbuf_of_admits {bytes : List Byte} {s : State} (h : s.cfg.rbufSize.admits bytes.length = true) :
    writeRbuf bytes s = .next (s.withPrs { s.prs with rbuf := bytes }) := if_pos h

theorem writeRbuf_of_not_admits {bytes : List Byte} {s : State} (h : s.cfg.rbufSize.admits bytes.length = false) :
    writeRbuf bytes s = .fault (.hostWriteOverCapacity .rbuf) := if_neg (by simp [h])

theorem writePin_of_admits {pts : List WirePoint} {s : State} (h : s.cfg.pinSize.admits pts.length = true) :
    writePin pts s = .next (s.withEnc { s.enc with pin := pts }) := if_pos h

theorem writePin_of_not_admits {pts : List WirePoint} {s : State} (h : s.cfg.pinSize.admits pts.length = false) :
    writePin pts s = .fault (.hostWriteOverCapacity .pin) := if_neg (by simp [h])

/-! ### Which host steps stop -/

theorem issue_completes (op : Byte) (now : Time) (s : State) : ∃ t, issue op now s = .next t := by
  unfold issue
  split
  case h_1 i _ =>
    obtain ⟨t, ht, -⟩ := exec_completes i s
    exact ⟨t, ht⟩
  case h_2 => exact ⟨_, rfl⟩

/-- A host step that fits its buffer completes: commands, ARG writes and reads always do. -/
theorem hostStep_completes_of_fits {a : HostStep} {s : State} (h : stepFits s.cfg a = true) :
    ∃ t, hostStep a s = .next t := by
  cases a with
  | issue op now => exact issue_completes op now s
  | writeArg i v => exact ⟨_, rfl⟩
  | writeIbuf bytes => exact ⟨_, writeIbuf_of_admits h⟩
  | writeRbuf bytes => exact ⟨_, writeRbuf_of_admits h⟩
  | writePin pts => exact ⟨_, writePin_of_admits h⟩
  | read p => exact ⟨_, rfl⟩

/-- Only a buffer write can fail to fit, and then it has no step (rule R61, assumption log 4). -/
theorem hostStep_faults_of_not_fits {a : HostStep} {s : State} (h : stepFits s.cfg a = false) :
    ∃ f, hostStep a s = .fault f := by
  cases a with
  | issue op now => cases h
  | writeArg i v => cases h
  | writeIbuf bytes => exact ⟨_, writeIbuf_of_not_admits h⟩
  | writeRbuf bytes => exact ⟨_, writeRbuf_of_not_admits h⟩
  | writePin pts => exact ⟨_, writePin_of_not_admits h⟩
  | read p => cases h

/-- A step either completes, or is the fault of a host step that does not fit. -/
theorem step_completes_or_faults (s : State) :
    (∃ t, step s = .next t) ∨
      (∃ f, step s = .fault f) ∧ ∃ a rest, s.port = a :: rest ∧ stepFits s.cfg a = false := by
  cases hp : s.port with
  | nil => exact .inl ⟨s, step_of_port_nil hp⟩
  | cons a rest =>
    rw [step_of_port_cons hp]
    cases hf : stepFits s.cfg a with
    | true => exact .inl (hostStep_completes_of_fits hf)
    | false => exact .inr ⟨hostStep_faults_of_not_fits hf, a, rest, rfl, hf⟩

/-! ### RD_REG and host reads -/

/-- RD_REG of a number of the map (rule R261). -/
theorem execRdReg_of_some {s : State} {v : Word} (h : readReg s (lowByte s.arg.arg0) = some v) :
    execRdReg s = .next ((s.setQ0 v).finish Status.ok) := by
  simp only [execRdReg, h]

/-- RD_REG of an unassigned number (rule R262). -/
theorem execRdReg_of_none {s : State} (h : readReg s (lowByte s.arg.arg0) = none) :
    execRdReg s = .next ((s.setQ0 0).raise Status.badArg) := by
  simp only [execRdReg, h]

/-- ARG0 stands in the register map at number 0x08 alone (rule R47). -/
theorem readReg_writeArg0 (s : State) (a : Word) {num : Byte} (hnum : num ≠ 0x08) :
    readReg { s with arg := { s.arg with arg0 := a } } num = readReg s num := by
  have hne : num.toNat ≠ 0x08 := fun h => hnum (BitVec.eq_of_toNat_eq h)
  unfold readReg
  split
  case h_6 h8 => exact absurd h8 hne
  all_goals simp [*]

/-- Where the answer of a direct read and the result of RD_REG come from one register number, they agree: OK and the
value in Q0, or BAD_ARG and no answer (rules R47, R261, R262). -/
theorem hostRead_reg_agrees_rdReg {s t : State} {a : Word} (hnum : lowByte a ≠ 0x08)
    (h : execRdReg { s with arg := { s.arg with arg0 := a } } = .next t) :
    (t.res.status = 0x00 → readPlace s (.reg (lowByte a)) = some (.word t.res.q0)) ∧
      (t.res.status ≠ 0x00 → readPlace s (.reg (lowByte a)) = none) := by
  have hread := readReg_writeArg0 s a hnum
  cases hv : readReg s (lowByte a) with
  | some v =>
    cases (execRdReg_of_some (hread.trans hv)).symm.trans h
    exact ⟨fun _ => by simp [readPlace, hv], fun hst => absurd rfl hst⟩
  | none =>
    cases (execRdReg_of_none (hread.trans hv)).symm.trans h
    exact ⟨fun hst => absurd hst (by simp [Status.badArg]), fun _ => by simp [readPlace, hv]⟩

/-- A read at the port is one step that changes the port and the host's answer alone (rules R71, R72). -/
theorem step_of_port_read {s : State} {p : ReadPlace} {rest : List HostStep} (hp : s.port = .read p :: rest) :
    step s = .next { s with port := rest, answer := readPlace s p } := by
  rw [step_of_port_cons hp, ← readPlace_congr p s rest s.answer]
  exact hostRead_eq p _

/-! ### Contexts -/

/-- What instruction `i` can write, by the contexts that may issue it (rule R77): the result registers alone where every
context may, and the units of the one context that may besides. The instructions of the two streams are nobody's. -/
inductive ContextWrites (i : Instr) (s t : State) : Prop
  | shared (ht : t = { s with res := t.res }) : ContextWrites i s t
  | mainLoop (hi : ∀ a, mayIssue a i = true → a = .mainLoop)
      (ht : t = { s with dec := t.dec, seq := t.seq, res := t.res }) : ContextWrites i s t
  | receive (hi : ∀ a, mayIssue a i = true → a = .receive)
      (ht : t = { s with prs := t.prs, res := t.res }) : ContextWrites i s t
  | transmit (hi : ∀ a, mayIssue a i = true → a = .transmit)
      (ht : t = { s with enc := t.enc, res := t.res }) : ContextWrites i s t
  | stream (hi : ∀ a, ¬ mayIssue a i = true) : ContextWrites i s t

section
variable {s t : State}

theorem execXfW2s_writes (h : execXfW2s s = .next t) : t = { s with res := t.res } := by
  unfold execXfW2s at h
  dsimp only at h
  split at h <;> cases h <;> rfl

theorem execRdReg_writes (h : execRdReg s = .next t) : t = { s with res := t.res } := by
  unfold execRdReg at h
  split at h <;> cases h <;> rfl

theorem execParseIwp_writes {now : Time} (h : execParseIwp now s = .next t) :
    t = { s with prs := t.prs, res := t.res } := by
  unfold execParseIwp at h
  split at h <;> cases h <;> rfl

theorem execTxOpen_writes (h : execTxOpen s = .next t) : t = { s with enc := t.enc, res := t.res } := by
  unfold execTxOpen at h
  split at h <;> cases h <;> rfl

theorem execTxSetRate_writes (h : execTxSetRate s = .next t) : t = { s with enc := t.enc, res := t.res } := by
  unfold execTxSetRate at h
  split at h <;> cases h <;> rfl

theorem execTxSetMaxdg_writes (h : execTxSetMaxdg s = .next t) : t = { s with enc := t.enc, res := t.res } := by
  unfold execTxSetMaxdg at h
  split at h <;> cases h <;> rfl

theorem execTxPack_writes (h : execTxPack s = .next t) : t = { s with enc := t.enc, res := t.res } := by
  unfold execTxPack at h
  split at h
  · cases h; rfl
  · split at h <;> cases h <;> rfl

theorem execTxClose_writes (h : execTxClose s = .next t) : t = { s with enc := t.enc, res := t.res } := by
  unfold execTxClose at h
  split at h
  · cases h; rfl
  · split at h <;> cases h <;> rfl

theorem execXfFrame_writes (h : execXfFrame s = .next t) : t = { s with enc := t.enc, res := t.res } := by
  unfold execXfFrame at h
  split at h
  · cases h; rfl
  split at h
  · cases h; rfl
  · split at h <;> cases h <;> rfl

theorem execXfCurrent_writes (h : execXfCurrent s = .next t) : t = { s with enc := t.enc, res := t.res } := by
  unfold execXfCurrent at h
  split at h
  · cases h; rfl
  split at h
  · cases h; rfl
  · split at h <;> cases h <;> rfl

/-- Every instruction writes within its context. -/
theorem exec_contextWrites {i : Instr} (h : exec i s = .next t) : ContextWrites i s t := by
  cases i with
  | ildaFmt0 | ildaFmt1 | ildaFmt2 | ildaFmt4 | ildaFmt5 | iwpOff | iwpPeriod | iwpPt8 | iwpPt16 =>
    exact .stream fun _ => nofun
  | nop | xfI2w | xfW2i | xfExp | xfNar | xfWcol | seqSnapshot =>
    cases h
    exact .shared rfl
  | xfW2s => exact .shared (execXfW2s_writes h)
  | rdReg => exact .shared (execRdReg_writes h)
  | decodeIlda | seqLoad | seqPlay | seqPause | seqStop | seqUpdate | seqNext | seqPrev | seqSetFps | seqSetSpeed
  | seqSetLoop =>
    cases h
    exact .mainLoop (fun _ => of_decide_eq_true) rfl
  | parseIwp => exact .receive (fun _ => of_decide_eq_true) (execParseIwp_writes h)
  | xfFrame => exact .transmit (fun _ => of_decide_eq_true) (execXfFrame_writes h)
  | xfCurrent => exact .transmit (fun _ => of_decide_eq_true) (execXfCurrent_writes h)
  | txOpen => exact .transmit (fun _ => of_decide_eq_true) (execTxOpen_writes h)
  | txSetRate => exact .transmit (fun _ => of_decide_eq_true) (execTxSetRate_writes h)
  | txPack => exact .transmit (fun _ => of_decide_eq_true) (execTxPack_writes h)
  | txClose => exact .transmit (fun _ => of_decide_eq_true) (execTxClose_writes h)
  | txSetMaxdg => exact .transmit (fun _ => of_decide_eq_true) (execTxSetMaxdg_writes h)

end

/-! ### DECODE_ILDA twice -/

/-- DEC_NFRAMES as it stood before a decode plays no part in it: no section reads or writes it (rules R124 to R129). -/
theorem runSec_nframes (c : Config) (d : DecoderUnit) (n : Word) (x : Sec) :
    { d with nframes := n }.runSec c x = { d.runSec c x with nframes := n } := by
  have point : ∀ (h : Header) (rs : Nat) (pts : List Point),
      { d with nframes := n }.pointSection c h rs pts = { d.pointSection c h rs pts with nframes := n } := by
    intro h rs pts
    obtain ⟨hr, e⟩ | ⟨hr, e⟩ := pointSection_cases d c h rs pts <;> rw [e]
    · exact if_pos hr
    · exact if_neg fun h' => absurd (hr.symm.trans h') (by decide)
  cases x with
  | fmt2 h recs => rfl
  | fmt0 h recs => exact point ..
  | fmt1 h recs => exact point ..
  | fmt4 h recs => exact point ..
  | fmt5 h recs => exact point ..

theorem decodeLoop_nframes (c : Config) (n : Word) (fuel : Nat) (d : DecoderUnit) :
    decodeLoop c fuel { d with nframes := n } = { decodeLoop c fuel d with nframes := n } := by
  induction fuel generalizing d with
  | zero => rfl
  | succ fuel ih =>
    simp only [decodeLoop]
    cases decodeSec (d.ibuf.drop d.off) with
    | error e => rfl
    | ok x =>
      simp only [runSec_nframes]
      split
      · exact ih _
      · rfl

/-- A whole decode reads IBUF and the configuration alone (rules R120, R125). -/
theorem countFrames_decodeImage_congr (c : Config) {d d' : DecoderUnit} (h : d'.ibuf = d.ibuf) :
    countFrames (d'.decodeImage c) = countFrames (d.decodeImage c) := by
  have hstart : d'.startSession = { d.startSession with nframes := d'.nframes } := by
    simp [DecoderUnit.startSession, h]
  simp only [DecoderUnit.decodeImage, h, hstart, decodeLoop_nframes, countFrames]

theorem countFrames_decodeImage_idem (c : Config) (d : DecoderUnit) :
    countFrames ((countFrames (d.decodeImage c)).decodeImage c) = countFrames (d.decodeImage c) :=
  countFrames_decodeImage_congr c (decodeImage_inv c d).1

/-- The state DECODE_ILDA ends in, given the decoder it leaves: Q0, Q1 and STATUS are read off that decoder
(rule R125). -/
def endDecode (s : State) (d : DecoderUnit) : State :=
  (((s.withDec d).setQ0 (toReg32 .q0 d.fstore.length)).setQ1 (toReg32 .q1 d.off)).finish d.stop

@[simp] theorem endDecode_dec (s : State) (d : DecoderUnit) : (endDecode s d).dec = d := rfl
@[simp] theorem endDecode_cfg (s : State) (d : DecoderUnit) : (endDecode s d).cfg = s.cfg := rfl
@[simp] theorem endDecode_endDecode (s : State) (d : DecoderUnit) : endDecode (endDecode s d) d = endDecode s d := rfl

theorem exec_decodeIlda_eq (s : State) :
    exec .decodeIlda s = .next (endDecode s (countFrames (s.dec.decodeImage s.cfg))) := rfl

/-! ### The obligations -/

/-- Settles O11: a step completes or faults on a host step that does not fit, and a host step that does not fit
faults. -/
theorem stepStopsOnlyOnOversizedWrite : Obligations.StepStopsOnlyOnOversizedWrite := by
  intro s
  refine ⟨fun r hr => ?notRefused, fun f hf => ?onlyOversized, fun a rest hp hfit => ?oversizedFaults⟩
  case notRefused =>
    obtain ⟨t, ht⟩ | ⟨⟨f, hf⟩, -⟩ := step_completes_or_faults s
    · cases ht.symm.trans hr
    · cases hf.symm.trans hr
  case onlyOversized =>
    obtain ⟨t, ht⟩ | ⟨-, hover⟩ := step_completes_or_faults s
    · cases ht.symm.trans hf
    · exact hover
  case oversizedFaults =>
    rw [step_of_port_cons hp]
    exact hostStep_faults_of_not_fits hfit

/-- Settles O18: a command's writes lie in the units of its context, by the kind of the command. -/
theorem contextsOwnTheirState : Obligations.ContextsOwnTheirState := by
  intro i s t h
  cases exec_contextWrites h with
  | shared ht =>
    rw [ht]
    exact ⟨fun _ => ⟨rfl, rfl⟩, fun _ => ⟨rfl, rfl, rfl⟩, fun _ => ⟨rfl, rfl, rfl⟩⟩
  | mainLoop hi ht =>
    rw [ht]
    exact ⟨fun _ => ⟨rfl, rfl⟩, fun ha => absurd (hi _ ha) nofun, fun ha => absurd (hi _ ha) nofun⟩
  | receive hi ht =>
    rw [ht]
    exact ⟨fun ha => absurd (hi _ ha) nofun, fun _ => ⟨rfl, rfl, rfl⟩, fun ha => absurd (hi _ ha) nofun⟩
  | transmit hi ht =>
    rw [ht]
    exact ⟨fun ha => absurd (hi _ ha) nofun, fun ha => absurd (hi _ ha) nofun, fun _ => ⟨rfl, rfl, rfl⟩⟩
  | stream hi => exact ⟨fun ha => absurd ha (hi _), fun ha => absurd ha (hi _), fun ha => absurd ha (hi _)⟩

/-- Settles O28: a decode depends on IBUF alone, which it keeps, so the second decode leaves the decoder of the first;
and Q0, Q1 and STATUS are read off the decoder. -/
theorem decodeIldaIsIdempotent : Obligations.DecodeIldaIsIdempotent := by
  intro s t h
  rw [exec_decodeIlda_eq] at h
  cases h
  rw [exec_decodeIlda_eq, endDecode_dec, endDecode_cfg, countFrames_decodeImage_idem, endDecode_endDecode]

/-- Settles O9: the step is the host step at the port, and each write that fits is its equation above. -/
theorem hostStepsTakeEffect : Obligations.HostStepsTakeEffect := by
  intro s rest
  refine ⟨fun _ _ hp => step_of_port_cons hp, fun _ hp => step_of_port_cons hp, fun _ hp => step_of_port_cons hp,
    fun _ hp => step_of_port_cons hp, fun _ hp => step_of_port_cons hp, fun bs hp hfit => ?writeIbuf,
    fun bs hp hfit => ?writeRbuf, fun pts hp hfit => ?writePin, fun p hp => ⟨_, step_of_port_read hp⟩,
    step_of_port_nil⟩
  case writeIbuf => exact (step_of_port_cons hp).trans (writeIbuf_of_admits hfit)
  case writeRbuf => exact (step_of_port_cons hp).trans (writeRbuf_of_admits hfit)
  case writePin => exact (step_of_port_cons hp).trans (writePin_of_admits hfit)

/-- Settles O60: the answer is `readPlace`, and for a register number other than ARG0's it is RD_REG's. -/
theorem hostReadsAnswerTheState : Obligations.HostReadsAnswerTheState := by
  intro s p rest hp
  refine ⟨readPlace s p, step_of_port_read hp, ?arg0, ?register, ?spaces⟩
  case arg0 => rintro rfl; rfl
  case register =>
    rintro a t rfl hne h
    exact hostRead_reg_agrees_rdReg (fun h8 => hne (congrArg ReadPlace.reg h8)) h
  case spaces =>
    refine ⟨?_, ?_, ?_, ?_, ?_, ?_, ?_, ?_, ?_, ?_, ?_⟩ <;> intros <;> subst p <;> rfl

end Sys2Proof.Proofs
end

section
/-!
PROOFS (30_encoding.md). The three encodings (rules R85 to R112): what each decoder reads where its encoder has written,
what bytes a decoded unit has, which bytes of a header a section depends on, which opcodes stand for nothing.
-/

namespace Sys2Proof.Proofs

open Sys2Proof.Machine Sys2Proof.Safety

/-! ### Byte strings -/

theorem byteAt_congr {bs bs' : List Byte} {a : Nat} (h : bs[a]? = bs'[a]?) : byteAt bs a = byteAt bs' a := by
  simp only [byteAt, List.getD_eq_getElem?_getD, h]

/-- The first bytes of a string, one by one. -/
theorem take_eq_map_byteAt {bs : List Byte} {n : Nat} (h : n ≤ bs.length) :
    bs.take n = (List.range n).map (byteAt bs) := by
  refine List.ext_getElem (by simp [h]) fun a ha _ => ?_
  have hlt : a < bs.length := by simp at ha; omega
  simp [byteAt, hlt]

/-! ### Sections -/

/-- A section depends on its length, its magic, its header's fields and the bytes after its header (rule R121). -/
theorem decodeSec_congr {bs bs' : List Byte} (hlen : bs.length = bs'.length) (hmagic : bs.take 4 = bs'.take 4)
    (hhdr : readHeader bs = readHeader bs') (hbody : bs.drop hdrBytes = bs'.drop hdrBytes) :
    decodeSec bs = decodeSec bs' := by
  simp only [decodeSec, hlen, hmagic, hhdr, hbody]

/-- The fields of a header stand at the offsets 7 to 30 (rule R86). -/
theorem readHeader_congr {bs bs' : List Byte} (h : ∀ a, 7 ≤ a → a ≤ 30 → byteAt bs a = byteAt bs' a) :
    readHeader bs = readHeader bs' := by
  have half : ∀ a, 7 ≤ a → a ≤ 29 → be16At bs a = be16At bs' a := fun a hlo hhi => by
    rw [be16At, be16At, h a hlo (by omega), h (a + 1) (by omega) (by omega)]
  have eight : ∀ a, 7 ≤ a → a ≤ 23 → bytes8At bs a = bytes8At bs' a := fun a hlo hhi =>
    congrArg Vector.ofFn (funext fun i => h (a + i) (by omega) (by omega))
  rw [readHeader, readHeader, h offFmt (by decide) (by decide), eight offName (by decide) (by decide),
    eight offCompany (by decide) (by decide), half offCount (by decide) (by decide),
    half offFindex (by decide) (by decide), half offTotal (by decide) (by decide),
    h offProj (by decide) (by decide)]

/-- The section of a header and the bytes after it: what `decodeSec` makes of them once length and magic have passed. -/
def sectionOf (h : Header) (body : List Byte) : Except SecReject Sec :=
  match h.fmt.toNat with
  | 0 => .ok (.fmt0 h (readRecords readIndexed3 8 (recordsPresent h 8 body) body))
  | 1 => .ok (.fmt1 h (readRecords readIndexed2 6 (recordsPresent h 6 body) body))
  | 2 => .ok (.fmt2 h (readRecords readRgb 3 (recordsPresent h 3 body) body))
  | 4 => .ok (.fmt4 h (readRecords readTrue3 10 (recordsPresent h 10 body) body))
  | 5 => .ok (.fmt5 h (readRecords readTrue2 8 (recordsPresent h 8 body) body))
  | _ => .error (.unsupportedFormat h.fmt)

theorem sectionOf_fmt0 {h : Header} (hf : h.fmt = 0) (body : List Byte) : sectionOf h body =
    .ok (.fmt0 h (readRecords readIndexed3 8 (recordsPresent h 8 body) body)) := by
  rw [sectionOf, hf]; rfl

theorem sectionOf_fmt1 {h : Header} (hf : h.fmt = 1) (body : List Byte) : sectionOf h body =
    .ok (.fmt1 h (readRecords readIndexed2 6 (recordsPresent h 6 body) body)) := by
  rw [sectionOf, hf]; rfl

theorem sectionOf_fmt2 {h : Header} (hf : h.fmt = 2) (body : List Byte) : sectionOf h body =
    .ok (.fmt2 h (readRecords readRgb 3 (recordsPresent h 3 body) body)) := by
  rw [sectionOf, hf]; rfl

theorem sectionOf_fmt4 {h : Header} (hf : h.fmt = 4) (body : List Byte) : sectionOf h body =
    .ok (.fmt4 h (readRecords readTrue3 10 (recordsPresent h 10 body) body)) := by
  rw [sectionOf, hf]; rfl

theorem sectionOf_fmt5 {h : Header} (hf : h.fmt = 5) (body : List Byte) : sectionOf h body =
    .ok (.fmt5 h (readRecords readTrue2 8 (recordsPresent h 8 body) body)) := by
  rw [sectionOf, hf]; rfl

theorem decodeSec_eq_sectionOf {bs : List Byte} (hlen : ¬ bs.length < hdrBytes) (hmagic : bs.take 4 = magic) :
    decodeSec bs = sectionOf (readHeader bs) (bs.drop hdrBytes) :=
  (if_neg hlen).trans (if_neg (not_not_intro hmagic))

theorem decodeSec_encodeHeader (h : Header) (body : List Byte) :
    decodeSec (encodeHeader h ++ body) = sectionOf h body := by
  have hlen : ¬ (encodeHeader h ++ body).length < hdrBytes := by simp [hdrBytes]
  have hbody : (encodeHeader h ++ body).drop hdrBytes = body := List.drop_left' (encodeHeader_length h)
  rw [decodeSec_eq_sectionOf hlen (encodeHeader_magic h body), readHeader_encodeHeader, hbody]

/-- `n` records are present where `n` stand and either the count is `n` or the rest is shorter than a record
(rule R124). -/
theorem recordsPresent_eq {h : Header} {rs n : Nat} {body rest : List Byte} (hrs : 0 < rs) (hn : n ≤ h.count.toNat)
    (hbody : body.length = n * rs + rest.length) (hend : n = h.count.toNat ∨ rest.length < rs) :
    recordsPresent h rs body = n := by
  have havail : body.length / rs = n + rest.length / rs := by
    rw [hbody, Nat.add_comm, Nat.add_mul_div_right _ _ hrs, Nat.add_comm]
  rw [recordsPresent, havail]
  obtain hcount | hshort := hend
  · exact hcount ▸ Nat.min_eq_left (Nat.le_add_right _ _)
  · rw [Nat.div_eq_of_lt hshort]
    exact Nat.min_eq_right hn

/-- What follows a section does not belong to it: the section has all the records of its count, or less than one more
record follows (rule R124). -/
def EndsSection (h : Header) (n : Nat) (rest : List Byte) : Prop :=
  n = h.count.toNat ∨ ∃ rs, recsize h.fmt = some rs ∧ rest.length < rs

/-- The records of a section read back (rules R91 to R95, R124). -/
theorem readRecords_encoded {α : Type} {rd : List Byte → α} {wr : α → List Byte} {rs : Nat} {code : Byte}
    (hlen : ∀ a, (wr a).length = rs) (hrd : ∀ a rest, rd (wr a ++ rest) = a) (hsize : recsize code = some rs)
    (hpos : 0 < rs) {h : Header} {recs : List α} {rest : List Byte} (hh : h.heads code recs.length = true)
    (hend : EndsSection h recs.length rest) :
    readRecords rd rs (recordsPresent h rs (recs.flatMap wr ++ rest)) (recs.flatMap wr ++ rest) = recs := by
  obtain ⟨rfl, hle⟩ := of_decide_eq_true hh
  have hbody : (recs.flatMap wr ++ rest).length = recs.length * rs + rest.length := by
    rw [List.length_append, flatMap_length_const wr rs hlen]
  have hshort : recs.length = h.count.toNat ∨ rest.length < rs := by
    obtain hall | ⟨rs', hrs', hlt⟩ := hend
    · exact .inl hall
    · cases hsize.symm.trans hrs'
      exact .inr hlt
  rw [recordsPresent_eq hpos hle hbody hshort, readRecords_flatMap rd wr rs hlen hrd]

/-- A well-formed section reads back, whole or cut short, whatever follows it that is not its own (rules R86 to R95,
R124). -/
theorem decodeSec_encodeSec {x : Sec} {rest : List Byte} (hx : x.toInstr.wellFormed = true)
    (hend : EndsSection (secHeader x) (secRecords x) rest) : decodeSec (encodeSec x ++ rest) = .ok x := by
  cases x <;> rw [encodeSec, List.append_assoc, decodeSec_encodeHeader]
  case fmt0 h recs =>
    rw [sectionOf_fmt0 (of_decide_eq_true hx).1,
      readRecords_encoded encodeIndexed3_length readIndexed3_encode rfl (by decide) hx hend]
  case fmt1 h recs =>
    rw [sectionOf_fmt1 (of_decide_eq_true hx).1,
      readRecords_encoded encodeIndexed2_length readIndexed2_encode rfl (by decide) hx hend]
  case fmt2 h recs =>
    rw [sectionOf_fmt2 (of_decide_eq_true hx).1,
      readRecords_encoded encodeRgb_length readRgb_encode rfl (by decide) hx hend]
  case fmt4 h recs =>
    rw [sectionOf_fmt4 (of_decide_eq_true hx).1,
      readRecords_encoded encodeTrue3_length readTrue3_encode rfl (by decide) hx hend]
  case fmt5 h recs =>
    rw [sectionOf_fmt5 (of_decide_eq_true hx).1,
      readRecords_encoded encodeTrue2_length readTrue2_encode rfl (by decide) hx hend]

/-! ### IWP commands -/

/-- Only the bytes 0x00 to 0x03 have a length (rule R106). -/
theorem le_three_of_cmdlen {c : Byte} {n : Nat} (h : cmdlen c = some n) : c.toNat ≤ 3 := by
  unfold cmdlen at h
  split at h
  case h_5 => cases h
  all_goals omega

/-- What `decodeCmd` can answer: each command byte has its own length and payload (rules R101 to R104, R106). -/
theorem decodeCmd_ok {bs : List Byte} {c : RawCmd} (h : decodeCmd bs = .ok c) :
    (byteAt bs 0 = 0x00 ∧ c = .off) ∨
    (byteAt bs 0 = 0x01 ∧ c = .period (be32At bs 1)) ∨
    (byteAt bs 0 = 0x02 ∧ c = .pt8 (be16At bs 1) (be16At bs 3) (byteAt bs 5) (byteAt bs 6) (byteAt bs 7)) ∨
    (byteAt bs 0 = 0x03 ∧
      c = .pt16 (be16At bs 1) (be16At bs 3) (be16At bs 5) (be16At bs 7) (be16At bs 9)) := by
  have isByte : ∀ {b : Byte}, (byteAt bs 0).toNat = b.toNat → byteAt bs 0 = b := BitVec.eq_of_toNat_eq
  unfold decodeCmd at h
  split at h
  · cases h
  · dsimp only at h
    split at h
    · cases h
    · have hle : (byteAt bs 0).toNat ≤ 3 := le_three_of_cmdlen ‹_›
      split at h
      · cases h
      · split at h <;> cases h
        case h_1 h0 => exact .inl ⟨isByte h0, rfl⟩
        case h_2 h1 => exact .inr (.inl ⟨isByte h1, rfl⟩)
        case h_3 h2 => exact .inr (.inr (.inl ⟨isByte h2, rfl⟩))
        case h_4 h0 h1 h2 =>
          change _ ≠ _ at h0 h1 h2
          have h3 : (byteAt bs 0).toNat = 3 := by omega
          exact .inr (.inr (.inr ⟨isByte h3, rfl⟩))

/-- A decoded command is written back as the bytes it was read from (rules R101 to R104). -/
theorem encodeCmd_of_decodeCmd {bs : List Byte} {c : RawCmd} (h : decodeCmd bs = .ok c) :
    encodeCmd c = bs.take c.length := by
  rw [take_eq_map_byteAt (decodeCmd_length h)]
  obtain ⟨h0, rfl⟩ | ⟨h0, rfl⟩ | ⟨h0, rfl⟩ | ⟨h0, rfl⟩ := decodeCmd_ok h <;>
    simp [encodeCmd, RawCmd.length, List.range_succ, h0, be16At, be32At, put16_be16, put32_be32]

/-! ### Host commands -/

/-- A decoded opcode is the one byte of its command's encoding (rule R110). -/
theorem encode_bytes_of_decodeHost {op : Byte} {now : Time} {i : Instr} (h : decodeHost op now = .ok i) :
    (encode i).bytes = [op] := by
  have back : ∀ {b : Byte}, op.toNat = b.toNat → [b] = [op] := fun hb =>
    congrArg (fun b => [b]) (BitVec.eq_of_toNat_eq hb.symm)
  unfold decodeHost at h
  split at h
  case h_29 => cases h
  all_goals
    cases h
    exact back ‹_›

/-- The opcodes outside the table of rule R110 (rule R112). -/
def Unassigned (op : Byte) : Prop :=
  (0x02 ≤ op.toNat ∧ op.toNat ≤ 0x0F) ∨ (0x18 ≤ op.toNat ∧ op.toNat ≤ 0x1F) ∨ (0x21 ≤ op.toNat ∧ op.toNat ≤ 0x2F) ∨
    (0x35 ≤ op.toNat ∧ op.toNat ≤ 0x3F) ∨ (0x4B ≤ op.toNat ∧ op.toNat ≤ 0x4F) ∨ 0x51 ≤ op.toNat

theorem decodeHost_of_unassigned {op : Byte} (h : Unassigned op) (now : Time) :
    decodeHost op now = .error (.unassignedOpcode op) := by
  unfold Unassigned at h
  unfold decodeHost
  split
  case h_29 => rfl
  all_goals omega

/-! ### Units -/

/-- An instruction is decoded from a section, an IWP command or an opcode (rule R85). -/
theorem decode_ok {u : CodeUnit} {i : Instr} (h : decode u = .ok i) :
    (∃ x, decodeSec u.bytes = .ok x ∧ i = x.toInstr) ∨
    (∃ c, decodeCmd u.bytes = .ok c ∧ i = c.toInstr) ∨
    (∃ op, decodeHost op u.now = .ok i) := by
  unfold decode at h
  split at h
  case h_1 =>
    split at h <;> cases h
    exact .inl ⟨_, ‹_›, rfl⟩
  case h_2 =>
    split at h <;> cases h
    exact .inr (.inl ⟨_, ‹_›, rfl⟩)
  case h_3 =>
    split at h
    · cases h
    · split at h <;> cases h
      exact .inr (.inr ⟨_, ‹_›⟩)

theorem rawCmd_wellFormed (c : RawCmd) : c.toInstr.wellFormed = true := by cases c <;> rfl

/-- Only a section can be ill-formed, and no section is a host command. -/
theorem wellFormed_of_isHostCommand {i : Instr} (h : isHostCommand i = true) : i.wellFormed = true := by
  cases i with
  | ildaFmt0 | ildaFmt1 | ildaFmt2 | ildaFmt4 | ildaFmt5 => cases h
  | _ => rfl

theorem encode_section (x : Sec) : encode x.toInstr = ⟨.ildaSection, encodeSec x, 0⟩ := by cases x <;> rfl

theorem encode_command (c : RawCmd) : encode c.toInstr = ⟨.iwpCmd, encodeCmd c, 0⟩ := by cases c <;> rfl

/-- A section standing alone ends with its last record. -/
theorem endsSection_nil {x : Sec} (hx : x.toInstr.wellFormed = true) :
    EndsSection (secHeader x) (secRecords x) [] := by
  refine .inr ?_
  cases x <;> rw [secHeader, (of_decide_eq_true hx).1] <;> exact ⟨_, rfl, by decide⟩

theorem decode_encode_section {x : Sec} (hx : x.toInstr.wellFormed = true) :
    decode (encode x.toInstr) = .ok x.toInstr := by
  have hread : decodeSec (encodeSec x) = .ok x := by
    simpa using decodeSec_encodeSec hx (endsSection_nil hx)
  simp only [encode_section, decode, hread]

theorem decode_encode_command (c : RawCmd) : decode (encode c.toInstr) = .ok c.toInstr := by
  have hread : decodeCmd (encodeCmd c) = .ok c := by simpa using decodeCmd_encodeCmd c []
  simp only [encode_command, decode, hread]

/-! ### The obligations -/

/-- Settles O1: sections and IWP commands read back by their own round trips, and a host command by its one byte. -/
theorem decodeEncodeRoundTrip : Obligations.DecodeEncodeRoundTrip := by
  intro i hi
  cases i with
  | ildaFmt0 h recs => exact decode_encode_section (x := .fmt0 h recs) hi
  | ildaFmt1 h recs => exact decode_encode_section (x := .fmt1 h recs) hi
  | ildaFmt2 h recs => exact decode_encode_section (x := .fmt2 h recs) hi
  | ildaFmt4 h recs => exact decode_encode_section (x := .fmt4 h recs) hi
  | ildaFmt5 h recs => exact decode_encode_section (x := .fmt5 h recs) hi
  | iwpOff => exact decode_encode_command .off
  | iwpPeriod v => exact decode_encode_command (.period v)
  | iwpPt8 x y r g b => exact decode_encode_command (.pt8 x y r g b)
  | iwpPt16 x y r g b => exact decode_encode_command (.pt16 x y r g b)
  | _ => rfl

/-- Settles O2: a decoded section is well-formed, and no other instruction can be ill-formed. -/
theorem decodedInstructionsAreWellFormed : Obligations.DecodedInstructionsAreWellFormed := by
  intro u i h
  obtain ⟨x, hx, rfl⟩ | ⟨c, -, rfl⟩ | ⟨op, hop⟩ := decode_ok h
  · exact decodeSec_wellFormed hx
  · exact rawCmd_wellFormed c
  · exact wellFormed_of_isHostCommand (decodeHost_isHostCommand hop)

/-- Settles O5: the reserved bytes are neither in the magic, nor in a field of the header, nor behind the header. -/
theorem reservedHeaderBytesIgnored : Obligations.ReservedHeaderBytesIgnored := by
  intro bs bs' hlen hagree
  refine decodeSec_congr hlen ?magic ?header ?body
  case magic =>
    refine List.ext_getElem? fun a => ?_
    rw [List.getElem?_take, List.getElem?_take]
    split
    · exact hagree a (by omega) (by omega) (by omega) (by omega)
    · rfl
  case header =>
    exact readHeader_congr fun a hlo hhi => byteAt_congr (hagree a (by omega) (by omega) (by omega) (by omega))
  case body =>
    refine List.ext_getElem? fun a => ?_
    rw [List.getElem?_drop, List.getElem?_drop, hdrBytes]
    exact hagree (32 + a) (by omega) (by omega) (by omega) (by omega)

/-- Settles O6: the rest is what stands behind the command's length. -/
theorem decodedCommandsReencode : Obligations.DecodedCommandsReencode := by
  intro bs c h
  exact ⟨bs.drop c.length, by rw [encodeCmd_of_decodeCmd h, List.take_append_drop]⟩

/-- Settles O3: the words are the encodings of these commands and records, which read back; the opcodes stand in
`decodeHost`. -/
theorem specWordsDecode : Obligations.SpecWordsDecode :=
  ⟨decodeCmd_encodeCmd (.period 1000) [], decodeCmd_encodeCmd (.pt8 16 32 255 128 0) [],
    decodeCmd_encodeCmd (.pt16 32768 32768 65535 0 0) [], readIndexed3_encode ⟨0xFFFF, 1, 0x8000, 0x40, 3⟩ [],
    readRgb_encode ⟨0x10, 0x20, 0x30⟩ [], rfl, rfl⟩

/-- Settles O4: a decoded opcode is a host command's, of its one byte. -/
theorem hostOpcodesReencode : Obligations.HostOpcodesReencode := by
  intro op now i h
  exact ⟨of_decide_eq_true (decodeHost_isHostCommand h), encode_bytes_of_decodeHost h⟩

/-- Settles O8: an unassigned opcode decodes to nothing, and the port raises REFUSED. -/
theorem unassignedOpcodeIsRefused : Obligations.UnassignedOpcodeIsRefused := by
  intro s op now hop
  simp only [issue, issueUnit, decode, decodeHost_of_unassigned hop now]
  rfl

end Sys2Proof.Proofs
end

section
/-!
PROOFS (40_ilda_decoder.md). One section of the stream (rules R121 to R135): what a palette section and a point section
make of the decoder, with room in the frame store and without, and which bytes a decoded section was read from.
-/

namespace Sys2Proof.Proofs

open Sys2Proof.Machine Sys2Proof.Safety

/-! ### The sizes of a section -/

/-- The record size of the section's format code (rule R90). -/
def secRecordSize : Sec → Nat
  | .fmt0 _ _ => 8
  | .fmt1 _ _ => 6
  | .fmt2 _ _ => 3
  | .fmt4 _ _ => 10
  | .fmt5 _ _ => 8

theorem secRecordSize_pos (x : Sec) : 0 < secRecordSize x := by
  cases x <;> simp only [secRecordSize] <;> decide

theorem encodeSec_length (x : Sec) : (encodeSec x).length = 32 + secRecords x * secRecordSize x := by
  cases x with
  | fmt0 h recs => exact Laws.EncodedLength.ildaFmt0 h recs
  | fmt1 h recs => exact Laws.EncodedLength.ildaFmt1 h recs
  | fmt2 h recs => exact Laws.EncodedLength.ildaFmt2 h recs
  | fmt4 h recs => exact Laws.EncodedLength.ildaFmt4 h recs
  | fmt5 h recs => exact Laws.EncodedLength.ildaFmt5 h recs

/-- A section asks for one frame and room for its records, or it is a palette section. -/
theorem point_or_palette (x : Sec) :
    (secFrames x = 1 ∧ secPoints x = secRecords x) ∨ ∃ h recs, x = .fmt2 h recs := by
  cases x with
  | fmt2 h recs => exact .inr ⟨h, recs, rfl⟩
  | _ => exact .inl ⟨rfl, rfl⟩

/-! ### What one section does -/

theorem exec_section (x : Sec) (s : State) :
    exec x.toInstr s = .next (s.withDec (s.dec.runSec s.cfg x)) := by cases x <;> rfl

/-- The four point formats differ in their record size and in the points they make of their records (rule R127). -/
theorem runSec_point {x : Sec} (hx : secFrames x = 1) (c : Config) (d : DecoderUnit) :
    ∃ pts : List Point, pts.length = secRecords x ∧
      d.runSec c x = d.pointSection c (secHeader x) (secRecordSize x) pts := by
  cases x with
  | fmt2 h recs => cases hx
  | fmt0 h recs => exact ⟨_, List.length_map _, rfl⟩
  | fmt1 h recs => exact ⟨_, List.length_map _, rfl⟩
  | fmt4 h recs => exact ⟨_, List.length_map _, rfl⟩
  | fmt5 h recs => exact ⟨_, List.length_map _, rfl⟩

theorem frameRoom_iff (d : DecoderUnit) (c : Config) (k : Nat) : d.frameRoom c k = true ↔
    c.maxFrames.admits (d.fstore.length + 1) = true ∧ c.maxPoints.admits (pointsStored d.fstore + k) = true := by
  rw [DecoderUnit.frameRoom, Bool.and_eq_true]

theorem frameRoom_eq_false_iff (d : DecoderUnit) (c : Config) (k : Nat) : d.frameRoom c k = false ↔
    c.maxFrames.admits (d.fstore.length + 1) = false ∨ c.maxPoints.admits (pointsStored d.fstore + k) = false := by
  rw [DecoderUnit.frameRoom, Bool.and_eq_false_iff]

/-- With room, a point section stores its frame and the cursor passes it (rule R127). -/
theorem pointSection_of_room {d : DecoderUnit} {c : Config} {h : Header} {rs n : Nat} {pts : List Point}
    (hn : pts.length = n) (hroom : d.frameRoom c n = true) : d.pointSection c h rs pts =
      { d with fstore := d.fstore ++ [⟨h.fmt, h, pts⟩], off := d.off + 32 + n * rs,
               stop := if n < h.count.toNat then Status.decTruncated else d.stop } := by
  subst hn
  obtain ⟨-, e⟩ | ⟨hnone, -⟩ := pointSection_cases d c h rs pts
  · exact e
  · exact absurd (hroom.symm.trans hnone) nofun

/-- The same of the machine's state, with the room of rule R129 as its two capacities. -/
theorem withDec_pointSection_of_room {s : State} {h : Header} {n : Nat} (rs : Nat) (pts : List Point)
    (hn : pts.length = n) (hf : s.cfg.maxFrames.admits (s.dec.fstore.length + 1) = true)
    (hp : s.cfg.maxPoints.admits (pointsStored s.dec.fstore + n) = true) :
    s.withDec (s.dec.pointSection s.cfg h rs pts) = { s with dec := { s.dec with
      fstore := s.dec.fstore ++ [⟨h.fmt, h, pts⟩]
      off := s.dec.off + 32 + n * rs
      stop := if n < h.count.toNat then Status.decTruncated else s.dec.stop } } :=
  congrArg s.withDec (pointSection_of_room hn ((frameRoom_iff _ _ _).mpr ⟨hf, hp⟩))

/-- With no room, a point section stops the decode and changes nothing else (rule R129). -/
theorem runSec_of_no_room {c : Config} {d : DecoderUnit} {x : Sec} (hx : secFrames x = 1)
    (hroom : d.frameRoom c (secRecords x) = false) : d.runSec c x = d.stopWith Status.decCapacity := by
  obtain ⟨pts, hn, e⟩ := runSec_point hx c d
  rw [← hn] at hroom
  obtain ⟨hsome, -⟩ | ⟨-, e'⟩ := pointSection_cases d c (secHeader x) (secRecordSize x) pts
  · exact absurd (hsome.symm.trans hroom) nofun
  · exact e.trans e'

/-- `d'` is `d` after sections that were not refused: the cursor is behind them, and the frame store has what they ask
room for besides. -/
structure Passed (d d' : DecoderUnit) (secs : List Sec) : Prop where
  ibuf : d'.ibuf = d.ibuf
  off : d'.off = d.off + (secs.flatMap encodeSec).length
  frames : d'.fstore.length = d.fstore.length + (secs.map secFrames).sum
  points : pointsStored d'.fstore = pointsStored d.fstore + (secs.map secPoints).sum

theorem Passed.refl (d : DecoderUnit) : Passed d d [] := ⟨rfl, rfl, rfl, rfl⟩

theorem Passed.trans {d d' d'' : DecoderUnit} {xs ys : List Sec} (h : Passed d d' xs) (h' : Passed d' d'' ys) :
    Passed d d'' (xs ++ ys) where
  ibuf := h'.ibuf.trans h.ibuf
  off := by rw [h'.off, h.off, List.flatMap_append, List.length_append, Nat.add_assoc]
  frames := by rw [h'.frames, h.frames, List.map_append, List.sum_append, Nat.add_assoc]
  points := by rw [h'.points, h.points, List.map_append, List.sum_append, Nat.add_assoc]

/-- One section passed, from the cursor and the two counts of the frame store. -/
theorem Passed.one {d d' : DecoderUnit} {x : Sec} (hib : d'.ibuf = d.ibuf)
    (hoff : d'.off = d.off + 32 + secRecords x * secRecordSize x)
    (hf : d'.fstore.length = d.fstore.length + secFrames x)
    (hp : pointsStored d'.fstore = pointsStored d.fstore + secPoints x) : Passed d d' [x] where
  ibuf := hib
  off := by rw [hoff, List.flatMap_singleton, encodeSec_length, Nat.add_assoc]
  frames := by rw [hf, List.map_singleton, List.sum_singleton]
  points := by rw [hp, List.map_singleton, List.sum_singleton]

/-- A section that is not refused: a palette section, or a point section with room (rules R126, R127, R133). -/
theorem runSec_of_room {c : Config} {d : DecoderUnit} {x : Sec}
    (hroom : secFrames x = 1 → d.frameRoom c (secRecords x) = true) :
    Passed d (d.runSec c x) [x] ∧ (d.runSec c x).stop =
      if secRecords x < (secHeader x).count.toNat then Status.decTruncated else d.stop := by
  obtain ⟨hx, hpts⟩ | ⟨h, recs, rfl⟩ := point_or_palette x
  · obtain ⟨pts, hn, e⟩ := runSec_point hx c d
    rw [e, pointSection_of_room hn (hroom hx)]
    exact ⟨.one rfl rfl (by simp [hx]) (by simp [hn, hpts]), rfl⟩
  · exact ⟨.one rfl rfl rfl rfl, rfl⟩

/-! ### The bytes of a decoded section -/

/-- `x` is what stands at the head of `bs`: header, format code and records (rules R121, R122, R124). -/
structure HeadsWith (bs : List Byte) (x : Sec) : Prop where
  length : 32 ≤ bs.length
  magic : bs.take 4 = magic
  header : secHeader x = readHeader bs
  size : recsize (byteAt bs 7) = some (secRecordSize x)
  records : secRecords x = recordsPresent (readHeader bs) (secRecordSize x) (bs.drop 32)
  point : secFrames x = 1 → byteAt bs 7 ≠ 2

theorem decodeSec_headsWith {bs : List Byte} {x : Sec} (hx : decodeSec bs = .ok x) : HeadsWith bs x := by
  have isCode : ∀ {code : Byte}, (readHeader bs).fmt.toNat = code.toNat → byteAt bs 7 = code := BitVec.eq_of_toNat_eq
  obtain ⟨hlen, hmagic, ⟨rfl, hf⟩ | ⟨rfl, hf⟩ | ⟨rfl, hf⟩ | ⟨rfl, hf⟩ | ⟨rfl, hf⟩⟩ := decodeSec_ok hx
  · have hc := isCode (code := 0) hf
    exact ⟨hlen, hmagic, rfl, by rw [hc]; rfl, readRecords_length .., fun _ => by rw [hc]; decide⟩
  · have hc := isCode (code := 1) hf
    exact ⟨hlen, hmagic, rfl, by rw [hc]; rfl, readRecords_length .., fun _ => by rw [hc]; decide⟩
  · have hc := isCode (code := 2) hf
    exact ⟨hlen, hmagic, rfl, by rw [hc]; rfl, readRecords_length .., nofun⟩
  · have hc := isCode (code := 4) hf
    exact ⟨hlen, hmagic, rfl, by rw [hc]; rfl, readRecords_length .., fun _ => by rw [hc]; decide⟩
  · have hc := isCode (code := 5) hf
    exact ⟨hlen, hmagic, rfl, by rw [hc]; rfl, readRecords_length .., fun _ => by rw [hc]; decide⟩

/-- Behind fewer records than the count, less than one more record is left (rule R124). -/
theorem rest_lt_of_recordsPresent_lt {h : Header} {rs : Nat} {body : List Byte} (hrs : 0 < rs)
    (hlt : recordsPresent h rs body < h.count.toNat) : body.length - recordsPresent h rs body * rs < rs := by
  have havail : recordsPresent h rs body = body.length / rs := by
    rw [recordsPresent] at hlt ⊢
    omega
  rw [havail, Nat.mul_comm, ← Nat.mod_eq_sub]
  exact Nat.mod_lt _ hrs

/-! ### The obligations about one section -/

/-- Settles O21: the four formats are one point section, whose frame has a point for each record. -/
theorem pointSectionsStoreOneFrame : Obligations.PointSectionsStoreOneFrame := by
  intro s h
  refine ⟨fun recs hf hp => ?fmt0, fun recs hf hp => ?fmt1, fun recs hf hp => ?fmt4, fun recs hf hp => ?fmt5⟩
  case fmt0 =>
    exact congrArg Host.Outcome.next (withDec_pointSection_of_room 8 (recs.map (pointOfIndexed3 s.dec.pal))
      (List.length_map _) hf hp)
  case fmt1 =>
    exact congrArg Host.Outcome.next (withDec_pointSection_of_room 6 (recs.map (pointOfIndexed2 s.dec.pal))
      (List.length_map _) hf hp)
  case fmt4 =>
    exact congrArg Host.Outcome.next (withDec_pointSection_of_room 10 (recs.map pointOfTrue3)
      (List.length_map _) hf hp)
  case fmt5 =>
    exact congrArg Host.Outcome.next (withDec_pointSection_of_room 8 (recs.map pointOfTrue2)
      (List.length_map _) hf hp)

/-- Settles O22: a section that is no palette section asks for a frame, and without room it only stops the decode. -/
theorem sectionOverCapacityStoresNothing : Obligations.SectionOverCapacityStoresNothing := by
  intro s x hx hroom
  obtain ⟨hpoint, -⟩ | ⟨h, recs, rfl⟩ := point_or_palette x
  · rw [exec_section, runSec_of_no_room hpoint ((frameRoom_eq_false_iff _ _ _).mpr hroom)]
    rfl
  · exact absurd rfl (hx h recs)

/-- Settles O23: the palette is the one `palLoad` leaves from entry 0 on. -/
theorem paletteSectionReplacesEntries : Obligations.PaletteSectionReplacesEntries := by
  intro s h recs
  exact ⟨palLoad 0 recs s.dec.pal, fun i => palLoad_getElem recs 0 s.dec.pal i.val i.isLt, rfl⟩

end Sys2Proof.Proofs
end

section
/-!
PROOFS (40_ilda_decoder.md). DECODE_ILDA on a whole image: the run of sections that fit the frame store (rules R120,
R125, R139), and what ends a decode (rules R121, R126, R128, R129).
-/

namespace Sys2Proof.Proofs

open Sys2Proof.Machine Sys2Proof.Safety

/-! ### Runs of sections -/

/-- The decoder after the sections, one after another. -/
def runSecs (c : Config) (d : DecoderUnit) (secs : List Sec) : DecoderUnit := secs.foldl (fun d x => d.runSec c x) d

theorem runSecs_cons (c : Config) (d : DecoderUnit) (x : Sec) (secs : List Sec) :
    runSecs c d (x :: secs) = runSecs c (d.runSec c x) secs := rfl

theorem runSecs_concat (c : Config) (d : DecoderUnit) (secs : List Sec) (x : Sec) :
    runSecs c d (secs ++ [x]) = (runSecs c d secs).runSec c x := by
  simp [runSecs]

/-- The sections' instructions run on the decoder alone. -/
theorem execAll_sections (secs : List Sec) (s : State) :
    execAll (secs.map Sec.toInstr) s = .next (s.withDec (runSecs s.cfg s.dec secs)) := by
  induction secs generalizing s with
  | nil => rfl
  | cons x secs ih =>
    rw [List.map_cons, execAll, exec_section]
    exact ih _

/-- There is room for the sections beside what the frame store holds (rule R129). -/
def FitsBeside (c : Config) (d : DecoderUnit) (secs : List Sec) : Prop :=
  c.maxFrames.admits (d.fstore.length + (secs.map secFrames).sum) = true ∧
    c.maxPoints.admits (pointsStored d.fstore + (secs.map secPoints).sum) = true

theorem fitsBeside_startSession (c : Config) (d : DecoderUnit) (secs : List Sec) :
    FitsBeside c d.startSession secs ↔ SectionsFit c secs := by
  simp [FitsBeside, SectionsFit, DecoderUnit.startSession]

/-- Room is used up by the sections passed, and by nothing else. -/
theorem Passed.fitsBeside_append {c : Config} {d d' : DecoderUnit} {secs : List Sec} (h : Passed d d' secs)
    (more : List Sec) : FitsBeside c d (secs ++ more) ↔ FitsBeside c d' more := by
  simp [FitsBeside, h.frames, h.points, Nat.add_assoc]

theorem FitsBeside.left {c : Config} {d : DecoderUnit} {secs more : List Sec} (h : FitsBeside c d (secs ++ more)) :
    FitsBeside c d secs := by
  simp only [FitsBeside, List.map_append, List.sum_append] at h
  exact ⟨admits_mono h.1 (by omega), admits_mono h.2 (by omega)⟩

theorem fitsBeside_point {c : Config} {d : DecoderUnit} {x : Sec} (hx : secFrames x = 1)
    (hp : secPoints x = secRecords x) : FitsBeside c d [x] ↔ d.frameRoom c (secRecords x) = true := by
  simp [FitsBeside, hx, hp, frameRoom_iff]

theorem FitsBeside.frameRoom {c : Config} {d : DecoderUnit} {x : Sec} (h : FitsBeside c d [x])
    (hx : secFrames x = 1) : d.frameRoom c (secRecords x) = true := by
  obtain ⟨-, hp⟩ | ⟨hdr, recs, rfl⟩ := point_or_palette x
  · exact (fitsBeside_point hx hp).mp h
  · cases hx

/-- A section that does not fit where nothing at all would is a point section: a palette section asks for no room. -/
theorem point_of_not_fitsBeside {c : Config} {d : DecoderUnit} {x : Sec} (h0 : FitsBeside c d [])
    (h : ¬ FitsBeside c d [x]) : secFrames x = 1 ∧ d.frameRoom c (secRecords x) = false := by
  obtain ⟨hx, hp⟩ | ⟨hdr, recs, rfl⟩ := point_or_palette x
  · exact ⟨hx, Bool.eq_false_iff.mpr fun hr => h ((fitsBeside_point hx hp).mpr hr)⟩
  · exact absurd h0 h

/-- A whole section with room is passed, and the decode goes on (rules R126, R127, R133). -/
theorem runSec_of_complete {c : Config} {d : DecoderUnit} {x : Sec} (hx : SecComplete x) (hfit : FitsBeside c d [x]) :
    Passed d (d.runSec c x) [x] ∧ (d.runSec c x).stop = d.stop := by
  obtain ⟨hpass, hstop⟩ := runSec_of_room hfit.frameRoom
  exact ⟨hpass, hstop.trans (if_neg (Nat.not_lt.mpr hx.2.ge))⟩

/-- Whole sections with room are all passed, and the decode goes on. -/
theorem runSecs_of_complete {c : Config} {secs : List Sec} {d : DecoderUnit} (hwhole : ∀ x ∈ secs, SecComplete x)
    (hfit : FitsBeside c d secs) : Passed d (runSecs c d secs) secs ∧ (runSecs c d secs).stop = d.stop := by
  induction secs generalizing d with
  | nil => exact ⟨.refl d, rfl⟩
  | cons x secs ih =>
    obtain ⟨hx, hsecs⟩ := List.forall_mem_cons.mp hwhole
    obtain ⟨hone, hstop⟩ := runSec_of_complete hx (FitsBeside.left (more := secs) hfit)
    obtain ⟨hrest, hstops⟩ := ih hsecs ((hone.fitsBeside_append secs).mp hfit)
    exact ⟨hone.trans hrest, hstops.trans hstop⟩

/-- The cursor behind the passed sections stands at what follows them. -/
theorem Passed.drop_off {d d' : DecoderUnit} {secs : List Sec} {tail : List Byte} (h : Passed d d' secs)
    (hib : d.ibuf.drop d.off = secs.flatMap encodeSec ++ tail) : d'.ibuf.drop d'.off = tail := by
  rw [h.ibuf, h.off, ← List.drop_drop, hib, List.drop_left]

/-! ### Rounds of the loop -/

theorem decodeLoop_of_error {c : Config} {d : DecoderUnit} {e : SecReject} (fuel : Nat)
    (hx : decodeSec (d.ibuf.drop d.off) = .error e) :
    decodeLoop c (fuel + 1) d = d.stopWith (Status.ofSecReject e) := by
  simp only [decodeLoop, hx]

theorem decodeLoop_of_go_on {c : Config} {d : DecoderUnit} {x : Sec} (fuel : Nat)
    (hx : decodeSec (d.ibuf.drop d.off) = .ok x) (hstop : (d.runSec c x).stop = 0x00) :
    decodeLoop c (fuel + 1) d = decodeLoop c fuel (d.runSec c x) := by
  simp only [decodeLoop, hx, hstop, if_true]

theorem decodeLoop_of_stop {c : Config} {d : DecoderUnit} {x : Sec} (fuel : Nat)
    (hx : decodeSec (d.ibuf.drop d.off) = .ok x) (hstop : (d.runSec c x).stop ≠ 0x00) :
    decodeLoop c (fuel + 1) d = d.runSec c x := by
  simp only [decodeLoop, hx, if_neg hstop]

/-- The loop runs whole sections that stand at the cursor and have room, one a round. -/
theorem decodeLoop_sections {c : Config} {secs : List Sec} {tail : List Byte} {d : DecoderUnit} (fuel : Nat)
    (hwhole : ∀ x ∈ secs, SecComplete x) (hfit : FitsBeside c d secs) (hstop : d.stop = 0x00)
    (hib : d.ibuf.drop d.off = secs.flatMap encodeSec ++ tail) :
    decodeLoop c (fuel + secs.length) d = decodeLoop c fuel (runSecs c d secs) := by
  induction secs generalizing d with
  | nil => rfl
  | cons x secs ih =>
    obtain ⟨hx, hsecs⟩ := List.forall_mem_cons.mp hwhole
    obtain ⟨hone, hgo⟩ := runSec_of_complete hx (FitsBeside.left (more := secs) hfit)
    have hib' : d.ibuf.drop d.off = [x].flatMap encodeSec ++ (secs.flatMap encodeSec ++ tail) := by simpa using hib
    have hdec : decodeSec (d.ibuf.drop d.off) = .ok x := by
      rw [hib', List.flatMap_singleton]
      exact decodeSec_encodeSec hx.1 (.inl hx.2)
    rw [List.length_cons, ← Nat.add_assoc, decodeLoop_of_go_on _ hdec (hgo.trans hstop), runSecs_cons]
    exact ih hsecs ((hone.fitsBeside_append secs).mp hfit) (hgo.trans hstop) (hone.drop_off hib')

theorem length_le_flatMap_encodeSec (secs : List Sec) : secs.length ≤ (secs.flatMap encodeSec).length := by
  induction secs with
  | nil => exact Nat.le_refl 0
  | cons x secs ih =>
    rw [List.flatMap_cons, List.length_append, encodeSec_length, List.length_cons]
    omega

/-- An image that begins with whole sections that fit: the decode is at what follows them, with rounds left. -/
structure AfterSections (c : Config) (d : DecoderUnit) (secs : List Sec) (tail : List Byte) : Prop where
  passed : Passed d.startSession (runSecs c d.startSession secs) secs
  stop : (runSecs c d.startSession secs).stop = 0x00
  atTail : (runSecs c d.startSession secs).ibuf.drop (runSecs c d.startSession secs).off = tail
  rounds : ∃ fuel, d.decodeImage c = decodeLoop c (fuel + 1) (runSecs c d.startSession secs)

theorem afterSections_of_fit {c : Config} {d : DecoderUnit} {secs : List Sec} {tail : List Byte}
    (hfit : SectionsFit c secs)
    (hwhole : ∀ x ∈ secs, SecComplete x) (hib : d.ibuf = secs.flatMap encodeSec ++ tail) :
    AfterSections c d secs tail := by
  have hfit' := (fitsBeside_startSession c d secs).mpr hfit
  obtain ⟨hpass, hstop⟩ := runSecs_of_complete hwhole hfit'
  refine ⟨hpass, hstop, hpass.drop_off hib, d.ibuf.length - secs.length, ?_⟩
  have hle : secs.length ≤ d.ibuf.length := by
    rw [hib, List.length_append]
    exact (length_le_flatMap_encodeSec secs).trans (Nat.le_add_right _ _)
  have hrounds : d.ibuf.length + 1 = d.ibuf.length - secs.length + 1 + secs.length := by omega
  rw [← decodeLoop_sections _ hwhole hfit' rfl hib, ← hrounds]
  rfl

section
variable {c : Config} {d : DecoderUnit} {secs : List Sec} {tail : List Byte}

theorem AfterSections.off (h : AfterSections c d secs tail) :
    (runSecs c d.startSession secs).off = (secs.flatMap encodeSec).length :=
  h.passed.off.trans (Nat.zero_add _)

theorem AfterSections.decodeImage_of_error (h : AfterSections c d secs tail) {e : SecReject}
    (he : decodeSec tail = .error e) :
    d.decodeImage c = (runSecs c d.startSession secs).stopWith (Status.ofSecReject e) := by
  obtain ⟨fuel, hloop⟩ := h.rounds
  rw [hloop, decodeLoop_of_error fuel (h.atTail.symm ▸ he)]

theorem AfterSections.decodeImage_of_stop (h : AfterSections c d secs tail) {x : Sec} (hx : decodeSec tail = .ok x)
    (hstop : ((runSecs c d.startSession secs).runSec c x).stop ≠ 0x00) :
    d.decodeImage c = (runSecs c d.startSession secs).runSec c x := by
  obtain ⟨fuel, hloop⟩ := h.rounds
  rw [hloop, decodeLoop_of_stop fuel (h.atTail.symm ▸ hx) hstop]

theorem AfterSections.fitsBeside_one (h : AfterSections c d secs tail) (x : Sec) :
    FitsBeside c (runSecs c d.startSession secs) [x] ↔ SectionsFit c (secs ++ [x]) :=
  (h.passed.fitsBeside_append [x]).symm.trans (fitsBeside_startSession c d _)

theorem AfterSections.fitsBeside_nil (h : AfterSections c d secs tail) (hfit : SectionsFit c secs) :
    FitsBeside c (runSecs c d.startSession secs) [] :=
  (h.passed.fitsBeside_append []).mp (by simpa [fitsBeside_startSession] using hfit)

end

/-- DECODE_ILDA from the decoder its loop ends with (rule R125). -/
theorem exec_decodeIlda_of_image {s : State} {d : DecoderUnit} {code : Byte} (h : s.dec.decodeImage s.cfg = d)
    (hstop : d.stop = code) : exec .decodeIlda s = .next { s with
      dec := countFrames d
      res := { s.res with q0 := toReg32 .q0 d.fstore.length, q1 := toReg32 .q1 d.off, status := code } } := by
  rw [exec_decodeIlda_eq, h, ← hstop]
  rfl

/-- A decoder over the image of another differs from it in what a decode writes alone (rule R125). -/
theorem countFrames_of_ibuf {d d' : DecoderUnit} (h : d'.ibuf = d.ibuf) : countFrames d' =
    { d with off := d'.off, stop := d'.stop, pal := d'.pal, fstore := d'.fstore,
             nframes := toReg32 .decNframes d'.fstore.length } := by
  rw [← h]
  rfl

/-! ### What ends a decode -/

/-- `d` is a decoder as DECODE_ILDA ends with it, for its reason: no section stands at the cursor, or the last section
held fewer records than its count, or the frame store has no room for the point section at the cursor. -/
inductive DecodeEnd (c : Config) (d : DecoderUnit) : Prop
  | noSection (e : SecReject) (he : decodeSec (d.ibuf.drop d.off) = .error e) (hoff : d.off ≤ d.ibuf.length)
      (hstop : d.stop = Status.ofSecReject e) : DecodeEnd c d
  | truncated (p : Nat) (x : Sec) (hx : decodeSec (d.ibuf.drop p) = .ok x)
      (hshort : secRecords x < (secHeader x).count.toNat)
      (hoff : d.off = p + 32 + secRecords x * secRecordSize x) (hstop : d.stop = Status.decTruncated) : DecodeEnd c d
  | full (x : Sec) (hx : decodeSec (d.ibuf.drop d.off) = .ok x) (hpoint : secFrames x = 1)
      (hroom : d.frameRoom c (secRecords x) = false) (hstop : d.stop = Status.decCapacity) : DecodeEnd c d

theorem decTruncated_ne_zero : Status.decTruncated ≠ 0x00 := by decide
theorem decCapacity_ne_zero : Status.decCapacity ≠ 0x00 := by decide

/-- A section that stops the decode was cut short, or is a point section without room (rules R126, R129). -/
theorem runSec_decodeEnd {c : Config} {d : DecoderUnit} {x : Sec} (hx : decodeSec (d.ibuf.drop d.off) = .ok x)
    (hgoing : d.stop = 0x00) (hstop : (d.runSec c x).stop ≠ 0x00) : DecodeEnd c (d.runSec c x) := by
  by_cases hroom : secFrames x = 1 → d.frameRoom c (secRecords x) = true
  · obtain ⟨hpass, hcode⟩ := runSec_of_room hroom
    have hoff := hpass.off
    rw [List.flatMap_singleton, encodeSec_length, ← Nat.add_assoc] at hoff
    split at hcode
    · next hshort => exact .truncated d.off x (hpass.ibuf.symm ▸ hx) hshort hoff hcode
    · exact absurd (hcode.trans hgoing) hstop
  · obtain ⟨hpoint, hnone⟩ := Classical.not_imp.mp hroom
    have hnone := Bool.eq_false_iff.mpr hnone
    rw [runSec_of_no_room hpoint hnone]
    exact .full x hx hpoint hnone rfl

theorem decodeImage_ends (c : Config) (d : DecoderUnit) : DecodeEnd c (d.decodeImage c) := by
  refine decodeLoop_induction c (fun _ => True) (DecodeEnd c) ?runSection ?stop _ _ trivial (Nat.zero_le _) rfl
    (by simp [DecoderUnit.startSession])
  case runSection =>
    intro d' x _ _ hgoing hx
    exact ⟨fun _ => trivial, runSec_decodeEnd hx hgoing⟩
  case stop =>
    intro d' e _ hoff _ he
    exact .noSection e he hoff rfl

/-- A section read at offset `p` lies inside the image (rule R124). -/
theorem section_end_le {buf : List Byte} {p : Nat} {x : Sec} (hx : HeadsWith (buf.drop p) x) :
    p + 32 + secRecords x * secRecordSize x ≤ buf.length := by
  have hlen := hx.length
  have hbytes := section_bytes _ hx.length (readHeader (buf.drop p)) (secRecordSize x)
  rw [List.length_drop] at hlen hbytes
  rw [hx.records]
  omega

section
variable {c : Config} {d : DecoderUnit}

theorem DecodeEnd.off_le (h : DecodeEnd c d) : d.off ≤ d.ibuf.length := by
  cases h with
  | noSection e he hoff hstop => exact hoff
  | truncated p x hx hshort hoff hstop => exact hoff ▸ section_end_le (decodeSec_headsWith hx)
  | full x hx hpoint hroom hstop =>
    have := section_end_le (decodeSec_headsWith hx)
    omega

theorem ofSecReject_pos (e : SecReject) : 1 ≤ (Status.ofSecReject e).toNat := by
  cases e <;> exact Nat.le_of_ble_eq_true rfl

theorem DecodeEnd.stop_pos (h : DecodeEnd c d) : 1 ≤ d.stop.toNat := by
  cases h with
  | noSection e he hoff hstop => exact hstop ▸ ofSecReject_pos e
  | truncated p x hx hshort hoff hstop => rw [hstop]; decide
  | full x hx hpoint hroom hstop => rw [hstop]; decide

end


/-! ### A section at an offset of the image -/

theorem getElem?_eq_byteAt {bs : List Byte} {a : Nat} (h : a < bs.length) : bs[a]? = some (byteAt bs a) := by
  simp [byteAt, h]

theorem byteAt_of_getElem? {bs : List Byte} {a : Nat} {b : Byte} (h : bs[a]? = some b) : byteAt bs a = b := by
  simp [byteAt, h]

theorem be16At_drop (bs : List Byte) (k n : Nat) : be16At (bs.drop k) n = be16At bs (k + n) := by
  rw [be16At, be16At, byteAt_drop, byteAt_drop, Nat.add_assoc]

/-- A format code without a record size is none of the five (rules R90, R128). -/
theorem unsupported_of_recsize_none {c : Byte} (h : recsize c = none) : c ≠ 0 ∧ c ≠ 1 ∧ c ≠ 2 ∧ c ≠ 4 ∧ c ≠ 5 := by
  refine ⟨?_, ?_, ?_, ?_, ?_⟩ <;> rintro rfl <;> cases h

section
variable {buf : List Byte} {p : Nat} {x : Sec}

theorem HeadsWith.length_at (h : HeadsWith (buf.drop p) x) : 32 ≤ buf.length - p :=
  List.length_drop ▸ h.length

/-- The format code stands at offset 7 of the header (rule R86). -/
theorem HeadsWith.code_at (h : HeadsWith (buf.drop p) x) : buf[p + 7]? = some (byteAt (buf.drop p) 7) := by
  have := h.length_at
  rw [byteAt_drop]
  exact getElem?_eq_byteAt (by omega)

/-- The record count stands at offset 24 of the header (rule R86). -/
theorem HeadsWith.count_at (h : HeadsWith (buf.drop p) x) : (secHeader x).count = be16At buf (p + 24) := by
  rw [h.header]
  exact be16At_drop buf p 24

theorem HeadsWith.records_at (h : HeadsWith (buf.drop p) x) : secRecords x =
    min (be16At buf (p + 24)).toNat ((buf.length - p - 32) / secRecordSize x) := by
  rw [h.records, recordsPresent, ← h.header, h.count_at, List.length_drop, List.length_drop]

/-- Behind a section that was cut short, less than one record is left of the image (rules R124, R126). -/
theorem HeadsWith.rest_lt (h : HeadsWith (buf.drop p) x) (hshort : secRecords x < (secHeader x).count.toNat) :
    buf.length - (p + 32 + secRecords x * secRecordSize x) < secRecordSize x := by
  rw [h.header, h.records] at hshort
  have hlt := rest_lt_of_recordsPresent_lt (secRecordSize_pos x) hshort
  rw [← h.records, List.length_drop, List.length_drop] at hlt
  omega

end

/-! ### The obligations about a whole image -/

/-- Settles O25: the loop runs the sections and stops at what follows them. -/
theorem decodeRunsWholeSections : Obligations.DecodeRunsWholeSections := by
  intro s secs tail e hfit hwhole he hib
  have h := afterSections_of_fit hfit hwhole hib
  exact ⟨s.withDec (runSecs s.cfg s.dec.startSession secs), execAll_sections secs _, h.off,
    exec_decodeIlda_of_image (h.decodeImage_of_error he) rfl⟩

/-- Settles O59: beside the sections that fit, a section that does not is a point section without room, which only stops
the decode. -/
theorem decodeStopsAtFullStore : Obligations.DecodeStopsAtFullStore := by
  intro s secs x tail hfit hwhole hx hover hib
  have h := afterSections_of_fit hfit hwhole hib
  obtain ⟨hpoint, hroom⟩ := point_of_not_fitsBeside (h.fitsBeside_nil hfit) (mt (h.fitsBeside_one x).mp hover)
  have hrun := runSec_of_no_room hpoint hroom
  have himage := h.decodeImage_of_stop hx (hrun ▸ decCapacity_ne_zero)
  exact ⟨s.withDec (runSecs s.cfg s.dec.startSession secs), execAll_sections secs _, h.off,
    exec_decodeIlda_of_image (himage.trans hrun) rfl⟩

/-- Settles O26: the last section is read back although it is cut short, is passed like the others, and its missing
records stop the decode. -/
theorem decodeUsesTruncatedLastSection : Obligations.DecodeUsesTruncatedLastSection := by
  intro s secs x tail rs hfit hwhole hx hshort hsize htail hib
  have hfirst : SectionsFit s.cfg secs :=
    (fitsBeside_startSession s.cfg s.dec secs).mp (((fitsBeside_startSession ..).mpr hfit).left)
  have h := afterSections_of_fit hfirst hwhole (hib.trans (List.append_assoc ..))
  obtain ⟨hpass, hstop⟩ := runSec_of_room ((h.fitsBeside_one x).mpr hfit).frameRoom
  rw [if_pos hshort] at hstop
  have hdec : decodeSec (encodeSec x ++ tail) = .ok x := decodeSec_encodeSec hx (.inr ⟨rs, hsize, htail⟩)
  have himage := h.decodeImage_of_stop hdec (hstop ▸ decTruncated_ne_zero)
  rw [← runSecs_concat] at hpass hstop himage
  refine ⟨s.withDec (runSecs s.cfg s.dec.startSession (secs ++ [x])), execAll_sections _ _, hstop,
    (h.passed.trans hpass).off.trans (Nat.zero_add _), exec_decodeIlda_of_image himage hstop⟩

/-- Settles O24: the decoder that ends a decode has the image it began with, and ends for one of the reasons. -/
theorem decodeIldaCompletes : Obligations.DecodeIldaCompletes := by
  intro s
  obtain ⟨hib, hinv⟩ := decodeImage_inv s.cfg s.dec
  have hend := decodeImage_ends s.cfg s.dec
  refine ⟨(s.dec.decodeImage s.cfg).off, (s.dec.decodeImage s.cfg).stop, (s.dec.decodeImage s.cfg).pal,
    (s.dec.decodeImage s.cfg).fstore, ?_, ⟨hend.stop_pos, hinv.stop⟩, hib ▸ hend.off_le, hinv.frames⟩
  rw [exec_decodeIlda_of_image rfl rfl, countFrames_of_ibuf hib]

/-- Settles O27: by the reason for which the decode ended. -/
theorem decodeStopsForItsReason : Obligations.DecodeStopsForItsReason := by
  intro s t h
  have hib := (decodeImage_inv s.cfg s.dec).1
  have hend := decodeImage_ends s.cfg s.dec
  rw [exec_decodeIlda_of_image rfl rfl] at h
  cases h
  dsimp only [countFrames]
  rw [← hib]
  generalize s.dec.decodeImage s.cfg = d at hend
  cases hend with
  | noSection e he hoff hstop =>
    obtain ⟨rfl, hlen⟩ | ⟨rfl, hlen, hmagic⟩ | ⟨rfl, hlen, hmagic, hsize⟩ := decodeSec_error he <;>
      rw [List.length_drop] at hlen <;> rw [hstop]
    · exact ⟨fun _ => hlen, nofun, nofun, nofun, nofun⟩
    · exact ⟨nofun, fun _ => ⟨hlen, hmagic⟩, nofun, nofun, nofun⟩
    · refine ⟨nofun, nofun, fun _ => ⟨hlen, hmagic, fun c hc => unsupported_of_recsize_none ?_⟩, nofun, nofun⟩
      rwa [byteAt_drop, byteAt_of_getElem? hc] at hsize
  | truncated p x hx hshort hoff hstop =>
    have H := decodeSec_headsWith hx
    rw [hstop, hoff]
    exact ⟨nofun, nofun, nofun, fun _ => ⟨p, _, secRecordSize x, secRecords x, H.length_at, H.magic, H.code_at, H.size,
      H.count_at ▸ hshort, rfl, section_end_le H, H.rest_lt hshort⟩, nofun⟩
  | full x hx hpoint hroom hstop =>
    have H := decodeSec_headsWith hx
    rw [frameRoom_eq_false_iff, H.records_at] at hroom
    rw [hstop]
    exact ⟨nofun, nofun, nofun, nofun, fun _ => ⟨H.length_at, H.magic, _, secRecordSize x, H.code_at, H.point hpoint,
      H.size, hroom⟩⟩

end Sys2Proof.Proofs
end

section
/-!
PROOFS (41_transform.md). The coordinate commands as one map on 16-bit patterns that undoes itself (rules R150 to R153),
the scaling to a screen (rules R154, R155), and the values of the colour functions (rules R156 to R160).
-/

namespace Sys2Proof.Proofs

open Sys2Proof.Machine

/-! ### The coordinate commands on patterns -/

/-- The values of rule R150's formulas lie below 65536, so its 16-bit results hold them. -/
theorem ofInt_emod_toNat (n : Int) : ((BitVec.ofInt 16 (n % 65536)).toNat : Int) = n % 65536 := by
  rw [BitVec.toNat_ofInt]
  omega

/-- Adding 0x8000 carries into no bit below 15 (rule R151). -/
theorem add_0x8000_eq_xor (x : Half) : x + 0x8000#16 = x ^^^ 0x8000#16 := by
  apply BitVec.eq_of_getLsbD_eq
  intro i hi
  have hsum : (x + 0x8000#16).getLsbD i = (2 ^ 15 + x.toNat).testBit i := by
    rw [BitVec.getLsbD, BitVec.toNat_add, Nat.testBit_mod_two_pow, Nat.add_comm]
    simp [hi]
  have hbit : (0x8000#16).getLsbD i = decide (15 = i) := Nat.testBit_two_pow (n := 15)
  rw [BitVec.getLsbD_xor, hsum, hbit]
  obtain rfl | hlt : i = 15 ∨ i < 15 := by omega
  · rw [Nat.testBit_two_pow_add_eq]
    simp [BitVec.getLsbD]
  · rw [Nat.testBit_two_pow_add_gt hlt]
    simp [BitVec.getLsbD, hlt.ne']

/-- Rule R152's x, as a pattern, is recentred like rule R150's. -/
theorem wireToIlda_fst_pattern (wx wy : Half) :
    BitVec.ofInt 32 ((wireToIlda wx wy).1 % 65536) = zext32 (wx + 0x8000#16) := by
  apply BitVec.eq_of_toNat_eq
  rw [zext32_toNat, BitVec.toNat_ofInt, BitVec.toNat_add]
  simp only [wireToIlda, BitVec.toNat_ofNat]
  omega

theorem sext16_emod {n : Nat} (h : n < 65536) : sext16 n % 65536 = n := by
  unfold sext16
  split <;> omega

/-- Rule R152's y, as a pattern, is flipped like rule R150's. -/
theorem wireToIlda_snd_pattern (wx wy : Half) :
    BitVec.ofInt 32 ((wireToIlda wx wy).2 % 65536) = zext32 (0x8000#16 - wy) := by
  apply BitVec.eq_of_toNat_eq
  have hy := wy.isLt
  dsimp only [wireToIlda]
  rw [sext16_emod (by omega), zext32_toNat, BitVec.toNat_ofInt, BitVec.toNat_sub, BitVec.toNat_ofNat]
  omega

/-- A command that ends with two results and OK writes nothing else (rule R271). -/
theorem setQ0_setQ1_finish_ok (s : State) (a b : Word) :
    ((s.setQ0 a).setQ1 b).finish Status.ok = { s with res := { s.res with q0 := a, q1 := b, status := 0x00 } } := rfl

/-- The state after either coordinate command: on patterns, XF_I2W and XF_W2I are the same map. -/
def recentred (s : State) : State :=
  ((s.setQ0 (zext32 (lowHalf s.arg.arg0 + 0x8000#16))).setQ1 (zext32 (0x8000#16 - lowHalf s.arg.arg1))).finish Status.ok

@[simp] theorem recentred_q0 (s : State) : (recentred s).res.q0 = zext32 (lowHalf s.arg.arg0 + 0x8000#16) := rfl
@[simp] theorem recentred_q1 (s : State) : (recentred s).res.q1 = zext32 (0x8000#16 - lowHalf s.arg.arg1) := rfl

theorem exec_xfI2w_eq_recentred (s : State) : exec .xfI2w s = .next (recentred s) := by
  show execXfI2w s = _
  rw [execXfI2w, ildaToWire_fst, ildaToWire_snd, recentred]

theorem exec_xfW2i_eq_recentred (s : State) : exec .xfW2i s = .next (recentred s) := by
  show execXfW2i s = _
  rw [execXfW2i, wireToIlda_fst_pattern, wireToIlda_snd_pattern, recentred]

/-- Adding 0x8000 twice, and subtracting from 0x8000 twice, give a pattern back (rule R153). -/
theorem recentred_recentred {s u : State} (hx : s.arg.arg0.toNat < 65536) (hy : s.arg.arg1.toNat < 65536)
    (h0 : u.arg.arg0 = (recentred s).res.q0) (h1 : u.arg.arg1 = (recentred s).res.q1) :
    recentred u = { u with res := { u.res with q0 := s.arg.arg0, q1 := s.arg.arg1, status := 0x00 } } := by
  have hq0 : zext32 (lowHalf u.arg.arg0 + 0x8000#16) = s.arg.arg0 := by
    rw [h0, recentred_q0, lowHalf_zext32, BitVec.add_assoc]
    exact (congrArg zext32 (BitVec.add_zero _)).trans (zext32_lowHalf hx)
  have hq1 : zext32 (0x8000#16 - lowHalf u.arg.arg1) = s.arg.arg1 := by
    rw [h1, recentred_q1, lowHalf_zext32, sub_sub_cancel, zext32_lowHalf hy]
  rw [recentred, setQ0_setQ1_finish_ok, hq0, hq1]

/-- Settles O36: both commands are the map that undoes itself. -/
theorem coordinatesRoundTrip : Obligations.CoordinatesRoundTrip := by
  intro s t u hx hy h0 h1
  rw [exec_xfI2w_eq_recentred, exec_xfI2w_eq_recentred, exec_xfW2i_eq_recentred, exec_xfW2i_eq_recentred]
  have back (h : (Host.Outcome.next (recentred s) : Host.Outcome State Fault Refusal) = .next t) :
      (Host.Outcome.next (recentred u) : Host.Outcome State Fault Refusal) =
        .next { u with res := { u.res with q0 := s.arg.arg0, q1 := s.arg.arg1, status := 0x00 } } := by
    cases h
    exact congrArg Host.Outcome.next (recentred_recentred hx hy h0 h1)
  exact ⟨back, back⟩

/-- Settles O34: recentring adds 0x8000, which inverts bit 15. -/
theorem xfI2wOnPatterns : Obligations.XfI2wOnPatterns := by
  intro s
  rw [exec_xfI2w_eq_recentred, recentred, setQ0_setQ1_finish_ok, add_0x8000_eq_xor]
  rfl

/-- Settles O33: the results are rule R150's formulas, which fit 16 bits. -/
theorem xfI2wRecentresAndFlips : Obligations.XfI2wRecentresAndFlips := by
  intro s
  refine ⟨_, _, rfl, ?_, ?_⟩
  · exact (congrArg Nat.cast (zext32_toNat _)).trans (ofInt_emod_toNat _)
  · exact (congrArg Nat.cast (zext32_toNat _)).trans (ofInt_emod_toNat _)

/-- Subtracting 32768 from a wire coordinate gives the signed value of its recentred pattern (rule R152). -/
theorem add_0x8000_toInt (x : Half) : (x + 0x8000#16).toInt = (x.toNat : Int) - 32768 := by
  rw [BitVec.toInt_eq_toNat_cond, BitVec.toNat_add, BitVec.toNat_ofNat]
  split <;> omega

theorem sub_0x8000_toNat (y : Half) : ((0x8000#16 - y).toNat : Int) = (32768 - (y.toNat : Int)) % 65536 := by
  rw [BitVec.toNat_sub, BitVec.toNat_ofNat]
  omega

/-- Settles O35: the values of the patterns that XF_W2I writes. -/
theorem xfW2iIsTheInverse : Obligations.XfW2iIsTheInverse := by
  intro s
  refine ⟨lowHalf s.arg.arg0 + 0x8000#16, 0x8000#16 - lowHalf s.arg.arg1, ?_, add_0x8000_toInt _, sub_0x8000_toNat _⟩
  rw [exec_xfW2i_eq_recentred, recentred, setQ0_setQ1_finish_ok]
  rfl

/-! ### Scaling to a screen -/

section
variable {v dim : Half}

/-- A wire coordinate is below 65536, so its scaled value is below the dimension (rule R155). -/
theorem scaled_lt (h : dim ≠ 0#16) : v.toNat * dim.toNat / 65536 < dim.toNat := by
  have hdim : 0 < dim.toNat := Nat.pos_of_ne_zero fun h0 => h (BitVec.eq_of_toNat_eq h0)
  exact Nat.div_lt_of_lt_mul (Nat.mul_lt_mul_of_pos_right v.isLt hdim)

/-- The clamp changes nothing (rule R155). -/
theorem toPixel_eq (h : dim ≠ 0#16) : toPixel v dim = v.toNat * dim.toNat / 65536 := by
  have := scaled_lt (v := v) h
  simp only [toPixel, clamp]
  omega

theorem toPixel_register (h : dim ≠ 0#16) :
    (BitVec.ofNat 32 (toPixel v dim)).toNat = v.toNat * dim.toNat / 65536 := by
  have hlt := scaled_lt (v := v) h
  rw [toPixel_eq h, BitVec.toNat_ofNat, Nat.mod_eq_of_lt]
  exact hlt.trans (dim.isLt.trans (by decide))

end

/-- Settles O37: a zero dimension is tested first, and otherwise each axis is scaled inside its dimension. -/
theorem xfW2sScales : Obligations.XfW2sScales := by
  intro s
  constructor
  · exact fun hzero => if_pos hzero
  · intro hw hh
    refine ⟨_, _, if_neg (not_or.mpr ⟨hw, hh⟩), toPixel_register hw, toPixel_register hh, ?_, ?_⟩
    · exact (toPixel_register hw).trans_lt (scaled_lt hw)
    · exact (toPixel_register hh).trans_lt (scaled_lt hh)

/-! ### Colours -/

theorem expand8to16_toNat (c : Byte) : (expand8to16 c).toNat = c.toNat * 257 := by
  have := c.isLt
  rw [expand8to16, BitVec.toNat_ofNat]
  omega

theorem narrow16to8_toNat (c : Half) :
    (narrow16to8 c).toNat = if 255 < c.toNat then c.toNat / 256 else c.toNat := by
  unfold narrow16to8
  split
  · rw [BitVec.toNat_ushiftRight, Nat.shiftRight_eq_div_pow]
  · rfl

theorem wexp_toNat (c : Half) : (wexp c).toNat = if 255 < c.toNat then c.toNat else c.toNat * 257 := by
  unfold wexp
  split
  · rfl
  · rw [BitVec.toNat_ofNat]
    omega

theorem lowBit_eq_true_iff (v : Word) : lowBit v = true ↔ v.toNat % 2 = 1 := by
  rw [lowBit, BitVec.getLsbD, Nat.testBit_zero, decide_eq_true_iff]

theorem wcol_toNat (v : Word) (c : Half) : (wcol (lowBit v) c).toNat =
    if v.toNat % 2 = 1 then 0 else if 255 < c.toNat then c.toNat else c.toNat * 257 := by
  simp only [wcol, lowBit_eq_true_iff]
  split
  · rfl
  · exact wexp_toNat c

/-- A multiple of 257 above 255 has its factor as its high byte, and the one below, 0, is kept (rule R159). -/
theorem narrow16to8_expand8to16 (c : Byte) : zext32 (narrow16to8 (expand8to16 c)) = c.zeroExtend 32 := by
  apply BitVec.eq_of_toNat_eq
  have hc := c.isLt
  rw [zext32_toNat, narrow16to8_toNat, expand8to16_toNat, BitVec.toNat_setWidth, Nat.mod_eq_of_lt (by omega)]
  split <;> omega

/-- Settles O38: each command's result has the value of its function. -/
theorem colourCommandsCompute : Obligations.ColourCommandsCompute := by
  intro s
  refine ⟨_, _, _, rfl, (zext32_toNat _).trans ?_, rfl, (zext32_toNat _).trans ?_, rfl, (zext32_toNat _).trans ?_⟩
  · rw [expand8to16_toNat, lowByte_toNat]
  · rw [narrow16to8_toNat, lowHalf_toNat]
  · rw [wcol_toNat, lowHalf_toNat]

/-- Settles O39: XF_NAR reads the expanded channel back from Q0's low half. -/
theorem narrowUndoesExpand : Obligations.NarrowUndoesExpand := by
  intro s t u h harg
  cases h
  have hq0 : u.arg.arg0 = zext32 (expand8to16 (lowByte s.arg.arg0)) := harg
  show execXfNar u = _
  rw [execXfNar, hq0, lowHalf_zext32, narrow16to8_expand8to16]
  rfl

end Sys2Proof.Proofs
end

section
/-!
PROOFS (42_iwp_decode.md). PARSE_IWP: what the four command types do to the packet (rules R180 to R183), the parse of a
stream of commands (rules R175, R184, R185), and that every datagram is a stream of commands followed by bytes that
are none (rules R178, R179, R186).
-/

namespace Sys2Proof.Proofs

open Sys2Proof.Machine Sys2Proof.Safety

/-! ### Runs of commands -/

theorem exec_command (c : RawCmd) (s : State) :
    exec c.toInstr s = .next (s.withPkt (s.prs.pkt.runCmd c)) := by cases c <;> rfl

/-- The packet after the commands, one after another: each field by its own rule (rules R180 to R183). -/
def afterCmds (p : Packet) (cmds : List RawCmd) : Packet :=
  { p with points := p.points ++ cmds.filterMap pointOfCmd, cmds := p.cmds ++ cmds, period := lastPeriod p.period cmds,
           endOff := p.endOff + (cmds.flatMap encodeCmd).length }

/-- A command adds its own point, if it is a point command, before those of the commands behind it. -/
theorem runCmd_points_append (p : Packet) (c : RawCmd) (cmds : List RawCmd) :
    (p.runCmd c).points ++ cmds.filterMap pointOfCmd = p.points ++ (c :: cmds).filterMap pointOfCmd := by
  cases c with
  | off | period => rfl
  | pt8 | pt16 => exact List.append_assoc ..

theorem lastPeriod_runCmd (p : Packet) (c : RawCmd) (cmds : List RawCmd) :
    lastPeriod (p.runCmd c).period cmds = lastPeriod p.period (c :: cmds) := by cases c <;> rfl

theorem afterCmds_nil (p : Packet) : afterCmds p [] = p := by
  simp [afterCmds, lastPeriod]

theorem afterCmds_runCmd (p : Packet) (c : RawCmd) (cmds : List RawCmd) :
    afterCmds (p.runCmd c) cmds = afterCmds p (c :: cmds) := by
  simp [afterCmds, runCmd_points_append, lastPeriod_runCmd, Nat.add_assoc]

/-- The commands' instructions run on the packet alone. -/
theorem execAll_commands (cmds : List RawCmd) (s : State) :
    execAll (cmds.map RawCmd.toInstr) s = .next (s.withPkt (afterCmds s.prs.pkt cmds)) := by
  induction cmds generalizing s with
  | nil => rw [afterCmds_nil]; rfl
  | cons c cmds ih =>
    rw [List.map_cons, execAll, exec_command, ← afterCmds_runCmd]
    exact ih _

/-! ### Rounds of the loop -/

section
variable {buf tail : List Byte} {p : Packet}

theorem parseLoop_of_error {e : CmdReject} (fuel : Nat) (hx : decodeCmd (buf.drop p.endOff) = .error e) :
    parseLoop buf (fuel + 1) p = { p with stop := Status.ofCmdReject e } := by
  simp only [parseLoop, hx]

theorem parseLoop_of_ok {c : RawCmd} (fuel : Nat) (hx : decodeCmd (buf.drop p.endOff) = .ok c) :
    parseLoop buf (fuel + 1) p = parseLoop buf fuel (p.runCmd c) := by
  simp only [parseLoop, hx]

/-- The offset moves past a command that stands at it. -/
theorem drop_runCmd_endOff {c : RawCmd} (hbuf : buf.drop p.endOff = encodeCmd c ++ tail) :
    buf.drop (p.runCmd c).endOff = tail := by
  rw [runCmd_endOff, ← List.drop_drop, hbuf, List.drop_left' (encodeCmd_length c)]

/-- The loop runs the commands that stand at the offset, one a round, and stops at what follows them. -/
theorem parseLoop_commands {cmds : List RawCmd} {e : CmdReject} (fuel : Nat)
    (hbuf : buf.drop p.endOff = cmds.flatMap encodeCmd ++ tail) (he : decodeCmd tail = .error e) :
    parseLoop buf (fuel + 1 + cmds.length) p = { afterCmds p cmds with stop := Status.ofCmdReject e } := by
  induction cmds generalizing p with
  | nil => rw [afterCmds_nil]; exact parseLoop_of_error fuel (hbuf ▸ he)
  | cons c cmds ih =>
    rw [List.flatMap_cons, List.append_assoc] at hbuf
    have hdec : decodeCmd (buf.drop p.endOff) = .ok c := hbuf ▸ decodeCmd_encodeCmd c _
    rw [List.length_cons, ← Nat.add_assoc, parseLoop_of_ok _ hdec, ← afterCmds_runCmd]
    exact ih (drop_runCmd_endOff hbuf)

end

theorem length_le_flatMap_encodeCmd (cmds : List RawCmd) : cmds.length ≤ (cmds.flatMap encodeCmd).length := by
  induction cmds with
  | nil => exact Nat.le_refl 0
  | cons c cmds ih =>
    have := c.length_pos
    rw [List.flatMap_cons, List.length_append, encodeCmd_length, List.length_cons]
    omega

/-! ### Streams of commands -/

/-- `buf` is the encodings of the commands, then bytes that are no command, for the reason `e` (rules R175, R178,
R179). -/
structure IsStream (buf : List Byte) (cmds : List RawCmd) (tail : List Byte) (e : CmdReject) : Prop where
  bytes : buf = cmds.flatMap encodeCmd ++ tail
  noCommand : decodeCmd tail = .error e

/-- Every byte string is a stream of commands, since every command takes at least one byte. -/
theorem exists_isStream (buf : List Byte) : ∃ cmds tail e, IsStream buf cmds tail e := by
  cases hx : decodeCmd buf with
  | error e => exact ⟨[], buf, e, rfl, hx⟩
  | ok c =>
    obtain ⟨cmds, tail, e, hrest, he⟩ := exists_isStream (buf.drop c.length)
    refine ⟨c :: cmds, tail, e, ?_, he⟩
    rw [List.flatMap_cons, List.append_assoc, ← hrest, encodeCmd_of_decodeCmd hx, List.take_append_drop]
termination_by buf.length
decreasing_by
  have := decodeCmd_length hx
  have := c.length_pos
  rw [List.length_drop]
  omega

/-- The packet of a datagram of `len` bytes that is a stream of `cmds` (rule R185). -/
def streamPacket (now : Time) (len : Nat) (cmds : List RawCmd) (stop : Byte) : Packet where
  points := cmds.filterMap pointOfCmd
  cmds := cmds
  period := lastPeriod none cmds
  time := now
  len := len
  endOff := (cmds.flatMap encodeCmd).length
  stop := stop

/-- The commands turn the empty packet into the packet of their stream. -/
theorem afterCmds_streamPacket_nil (now : Time) (len : Nat) (cmds : List RawCmd) (stop : Byte) :
    afterCmds (streamPacket now len [] stop) cmds = streamPacket now len cmds stop := by
  simp [afterCmds, streamPacket, lastPeriod]

section
variable {buf tail : List Byte} {cmds : List RawCmd} {e : CmdReject}

/-- The loop has rounds enough for the commands and the stop. -/
theorem IsStream.parseDatagram_eq (h : IsStream buf cmds tail e) (now : Time) :
    parseDatagram buf now = streamPacket now buf.length cmds (Status.ofCmdReject e) := by
  have hle : cmds.length ≤ buf.length := by
    rw [h.bytes, List.length_append]
    exact (length_le_flatMap_encodeCmd cmds).trans (Nat.le_add_right _ _)
  have hrounds : buf.length + 1 = buf.length - cmds.length + 1 + cmds.length := by omega
  have hloop := parseLoop_commands (p := streamPacket now buf.length [] 0x00) (buf.length - cmds.length) h.bytes
    h.noCommand
  rw [← hrounds, afterCmds_streamPacket_nil] at hloop
  exact hloop

theorem IsStream.take_end (h : IsStream buf cmds tail e) :
    buf.take (cmds.flatMap encodeCmd).length = cmds.flatMap encodeCmd := by
  rw [h.bytes, List.take_left]

theorem IsStream.length_eq (h : IsStream buf cmds tail e) :
    buf.length = (cmds.flatMap encodeCmd).length + tail.length := by
  rw [h.bytes, List.length_append]

/-- PARSE_END is the stop where no byte is left (rule R178). -/
theorem IsStream.tail_eq_nil_iff (h : IsStream buf cmds tail e) : tail = [] ↔ Status.ofCmdReject e = 0x10 := by
  obtain ⟨rfl, htail⟩ | ⟨rfl, htail, -⟩ | ⟨n, rfl, htail, -⟩ := decodeCmd_error h.noCommand
  · exact iff_of_true htail rfl
  · exact iff_of_false htail (show Status.parseUnknownCmd ≠ 0x10 by decide)
  · exact iff_of_false htail (show Status.parseTruncated ≠ 0x10 by decide)

/-- The commands reach the end of the datagram exactly where the parse ends with PARSE_END (rule R186). -/
theorem IsStream.end_eq_length_iff (h : IsStream buf cmds tail e) :
    (cmds.flatMap encodeCmd).length = buf.length ↔ Status.ofCmdReject e = 0x10 := by
  rw [← h.tail_eq_nil_iff, ← List.length_eq_zero_iff, h.length_eq]
  omega

end

/-! ### The command -/

/-- PARSE_IWP on a non-empty datagram, from the packet of its loop (rules R175, R184). -/
theorem exec_parseIwp_of_packet {s : State} {now : Time} {p : Packet} (hne : s.prs.rbuf ≠ [])
    (hp : parseDatagram s.prs.rbuf now = p) : exec (.parseIwp now) s = .next { s with
      prs := { s.prs with received := s.prs.received + 1, valid := s.prs.valid + 1, pkt := p }
      res := { s.res with q0 := toReg32 .q0 p.points.length, q1 := toReg32 .q1 p.cmds.length, status := p.stop } } := by
  subst hp
  exact if_neg (mt List.length_eq_zero_iff.mp hne)

/-! ### The obligations -/

/-- Settles O30: the loop and the instructions make the same packet of the commands. -/
theorem parseReadsTheCommandStream : Obligations.ParseReadsTheCommandStream := by
  intro s now cmds tail e hne hbytes he
  refine ⟨exec_parseIwp_of_packet hne (IsStream.parseDatagram_eq ⟨hbytes, he⟩ now), ?_⟩
  rw [execAll_commands]
  exact congrArg (fun p => Host.Outcome.next (s.withPkt p))
    (afterCmds_streamPacket_nil now s.prs.rbuf.length cmds 0x00)

/-- Settles O32: every datagram is a stream of commands, whose packet PARSE_IWP writes. -/
theorem parseAccountsForTheDatagram : Obligations.ParseAccountsForTheDatagram := by
  intro s now hne
  obtain ⟨cmds, tail, e, h⟩ := exists_isStream s.prs.rbuf
  exact ⟨streamPacket now s.prs.rbuf.length cmds (Status.ofCmdReject e),
    exec_parseIwp_of_packet hne (h.parseDatagram_eq now), h.take_end.symm, h.length_eq ▸ Nat.le_add_right _ _,
    rfl, rfl, rfl, rfl, h.end_eq_length_iff⟩

/-- Settles O29: each command type is its case of `runCmd`. -/
theorem streamCommandsExtendThePacket : Obligations.StreamCommandsExtendThePacket := by
  intro s
  refine ⟨exec_command .off s, fun v => exec_command (.period v) s, fun x y r g b => ?pt8,
    fun x y r g b => exec_command (.pt16 x y r g b) s⟩
  case pt8 =>
    rw [BitVec.ofNat_toNat, BitVec.ofNat_toNat, BitVec.ofNat_toNat]
    exact exec_command (.pt8 x y r g b) s

/-- Settles O31: the length is tested first. -/
theorem parseRejectsEmptyDatagram : Obligations.ParseRejectsEmptyDatagram := by
  intro s now hempty
  exact if_pos (List.length_eq_zero_iff.mpr hempty)

end Sys2Proof.Proofs
end

section
/-!
PROOFS (43_iwp_encode.md). The encoder: point records cut into datagrams (rules R196, R199, R209), the period (rule
R200), frames made into wire points (rules R211 to R213), and the session commands (rules R202 to R208).
-/

namespace Sys2Proof.Proofs

open Sys2Proof.Machine Sys2Proof.Safety

/-! ### Slices -/

/-- The slices of a list that `chunk` makes its datagrams of: `per` elements each, the rest in the last (rule R199). -/
def slices {α : Type} (per : Nat) (xs : List α) : List (List α) :=
  (List.range (ceilDiv xs.length per)).map fun j => (xs.drop (j * per)).take per

section
variable {α : Type} {per : Nat} {xs : List α}

/-- A chunk of records is the encoding of a slice of the points. -/
theorem chunk_encodePoint (per : Nat) (pts : List WirePoint) :
    chunk (pts.map encodePoint) per = (slices per pts).map (List.flatMap encodePoint) := by
  simp only [chunk, slices, List.map_map, List.length_map]
  refine List.map_congr_left fun j _ => ?_
  rw [Function.comp_apply, List.flatMap_def, List.map_take, List.map_drop]

@[simp] theorem slices_length (per : Nat) (xs : List α) : (slices per xs).length = ceilDiv xs.length per := by
  simp [slices]

/-- The first `n` slices are the first `n * per` elements. -/
theorem take_slices_flatten (per n : Nat) (xs : List α) :
    ((List.range n).map fun j => (xs.drop (j * per)).take per).flatten = xs.take (n * per) := by
  induction n with
  | zero => simp
  | succ n ih => simp [List.range_succ, ih, Nat.succ_mul, List.take_add]

/-- No element is lost between slices. -/
theorem slices_flatten (hper : 1 ≤ per) (xs : List α) : (slices per xs).flatten = xs := by
  rw [slices, take_slices_flatten, List.take_of_length_le (le_mul_ceilDiv _ _ hper)]

theorem slices_getElem?_length {j : Nat} {qs : List α} (h : (slices per xs)[j]? = some qs) :
    j < ceilDiv xs.length per ∧ qs.length = min per (xs.length - j * per) := by
  obtain ⟨hj, rfl⟩ := List.getElem?_eq_some_iff.mp h
  rw [slices_length] at hj
  simp [slices, hj]

/-- Every slice but the last is full. -/
theorem slice_length_of_not_last {j : Nat} {qs : List α} (h : (slices per xs)[j]? = some qs)
    (hj : j + 1 < (slices per xs).length) : qs.length = per := by
  rw [slices_length] at hj
  have hnext := mul_lt_of_lt_ceilDiv hj
  rw [Nat.succ_mul] at hnext
  rw [(slices_getElem?_length h).2]
  omega

/-- No slice is empty, and none holds more than `per` elements. -/
theorem slice_length_bounds (hper : 1 ≤ per) {qs : List α} (h : qs ∈ slices per xs) :
    1 ≤ qs.length ∧ qs.length ≤ per := by
  obtain ⟨j, hj⟩ := List.getElem?_of_mem h
  obtain ⟨hlt, hlen⟩ := slices_getElem?_length hj
  have := mul_lt_of_lt_ceilDiv hlt
  omega

theorem slice_ne_nil (hper : 1 ≤ per) {qs : List α} (h : qs ∈ slices per xs) : qs ≠ [] :=
  List.ne_nil_of_length_pos (slice_length_bounds hper h).1

end

theorem perChunk_pos {e : EncoderUnit} (h : 11 ≤ e.maxdg.toNat) : 1 ≤ e.perChunk := Nat.div_pos h (by decide)

theorem flatMap_encodePoint_length (qs : List WirePoint) : (qs.flatMap encodePoint).length = 11 * qs.length := by
  rw [flatMap_length_const encodePoint 11 encodePoint_length, Nat.mul_comm]

/-- Settles O49: each clause is a fact about the slices, at 11 bytes a point. -/
theorem chunksHoldWholeRecords : Obligations.ChunksHoldWholeRecords := by
  intro pts maxdg hmax
  have hper : 1 ≤ maxdg / 11 := Nat.div_pos hmax (by decide)
  refine ⟨?inOrder, ?number, fun d hd => ?lengths, fun j d hd hj => ?full⟩
  case inOrder => rw [chunk_flatten _ _ hper, List.flatMap_def]
  case number => rw [chunk_length, List.length_map, ceilDiv]
  case lengths =>
    rw [chunk_encodePoint] at hd
    obtain ⟨qs, hqs, rfl⟩ := List.mem_map.mp hd
    have hbounds := slice_length_bounds hper hqs
    rw [flatMap_encodePoint_length]
    omega
  case full =>
    rw [chunk_encodePoint, List.getElem?_map] at hd
    rw [chunk_encodePoint, List.length_map] at hj
    obtain ⟨qs, hqs, rfl⟩ := Option.map_eq_some_iff.mp hd
    rw [flatMap_encodePoint_length, slice_length_of_not_last hqs hj]

/-! ### The period -/

/-- `round_half_even(a / b)` is a nearest integer to `a / b`, the even one on a tie (rules R13, R200). -/
theorem roundHalfEven_nearest (a : Nat) {b : Nat} (hb : 0 < b) :
    2 * (roundHalfEven a b * b) ≤ 2 * a + b ∧ 2 * a ≤ 2 * (roundHalfEven a b * b) + b ∧
    (2 * (roundHalfEven a b * b) = 2 * a + b ∨ 2 * a = 2 * (roundHalfEven a b * b) + b → roundHalfEven a b % 2 = 0) := by
  have hdiv := Nat.div_add_mod' a b
  have hmod := Nat.mod_lt a hb
  have hup : (a / b + 1) * b = a / b * b + b := Nat.succ_mul ..
  simp only [roundHalfEven]
  split
  case isTrue up => omega
  case isFalse =>
    split
    case isTrue down => omega
    case isFalse tie =>
      obtain heven | hodd := Nat.mod_two_eq_zero_or_one (a / b)
      · rw [heven, Nat.add_zero]
        omega
      · rw [hodd]
        omega

theorem roundHalfEven_le (a : Nat) {b : Nat} (hb : 0 < b) : roundHalfEven a b ≤ a := by
  obtain ⟨hle, -, -⟩ := roundHalfEven_nearest a hb
  by_contra hlt
  have hmul : (a + 1) * b ≤ roundHalfEven a b * b := Nat.mul_le_mul_right b (by omega)
  have hab : a ≤ a * b := Nat.le_mul_of_pos_right a hb
  rw [Nat.succ_mul] at hmul
  omega

theorem word_pos {v : Word} (h : v ≠ 0) : 0 < v.toNat := Nat.pos_of_ne_zero fun h0 => h (BitVec.eq_of_toNat_eq h0)

/-- The clamp of rule R200 acts below only, since the rounded value fits the register. -/
theorem periodUs_toNat {hz : Word} (h : hz ≠ 0) : (periodUs hz).toNat = max (roundHalfEven 1000000 hz.toNat) 1 := by
  have hle := roundHalfEven_le 1000000 (word_pos h)
  rw [periodUs, if_neg h, BitVec.toNat_ofNat]
  simp only [clamp, microsPerSecond, periodMin, periodMax]
  omega

/-- Settles O48: the period is the rounded quotient. -/
theorem periodIsTheNearestInteger : Obligations.PeriodIsTheNearestInteger := by
  refine ⟨rfl, fun hz h => ⟨roundHalfEven 1000000 hz.toNat, ?_⟩⟩
  have hle := roundHalfEven_le 1000000 (word_pos h)
  obtain ⟨hbelow, habove, htie⟩ := roundHalfEven_nearest 1000000 (word_pos h)
  rw [periodUs_toNat h, Nat.mul_assoc]
  exact ⟨hbelow, habove, htie, rfl, by omega⟩

/-! ### Frames to wire points -/

/-- `toWire` on patterns (rules R151, R211). -/
theorem toWire_eq (p : Point) : toWire p = ⟨p.x ^^^ 0x8000#16, 0x8000#16 - p.y, p.r.zeroExtend 16, p.g.zeroExtend 16,
    p.b.zeroExtend 16, p.status.getLsbD 6⟩ := by
  rw [← add_0x8000_eq_xor, ← ildaToWire_fst p.x p.y.toInt, ← ildaToWire_snd p.x.toInt p.y]
  rfl

theorem exec_xfFrame_of_frame {s : State} {f : Frame} (hlt : s.arg.arg0.toNat < s.seq.n.toNat)
    (hf : s.seq.flist[s.arg.arg0.toNat]? = some f) : exec .xfFrame s =
      if s.cfg.pinSize.admits f.points.length then
        .next (((s.loadPin f.points).setQ0 (toReg32 .q0 f.points.length)).finish Status.ok)
      else .next ((s.setQ0 0).raise Status.txCapacity) := by
  show execXfFrame s = _
  simp only [execXfFrame, if_neg (Nat.not_le.mpr hlt), hf]

theorem exec_xfCurrent_of_frame {s : State} {f : Frame} (hn : s.seq.n ≠ 0)
    (hf : s.seq.flist[s.seq.index.toNat]? = some f) : exec .xfCurrent s =
      if s.cfg.pinSize.admits f.points.length then
        .next ((((s.loadPin f.points).setQ0 s.seq.index).setQ1 (toReg32 .q1 f.points.length)).finish Status.ok)
      else .next (((s.setQ0 s.seq.index).setQ1 0).raise Status.txCapacity) := by
  show execXfCurrent s = _
  simp only [execXfCurrent, if_neg hn, hf]

/-- Settles O40: the three tests of rule R212, in their order. -/
theorem xfFrameLoadsPin : Obligations.XfFrameLoadsPin := by
  intro s
  refine ⟨fun hle => if_pos hle, fun f hlt hf => ?_⟩
  rw [exec_xfFrame_of_frame hlt hf]
  simp only [← toWire_eq]
  exact ⟨fun room => if_pos room, fun full => if_neg (ne_true_of_eq_false full)⟩

/-- Settles O41: the three tests of rule R213, in their order. -/
theorem xfCurrentLoadsPin : Obligations.XfCurrentLoadsPin := by
  intro s
  refine ⟨fun hn => if_pos hn, fun f hn hf => ?_⟩
  rw [exec_xfCurrent_of_frame hn hf]
  simp only [← toWire_eq]
  exact ⟨fun room => if_pos room, fun full => if_neg (ne_true_of_eq_false full)⟩

/-! ### Session commands -/

/-- Settles O43: the one test of rule R202. -/
theorem txOpenSendsThePeriod : Obligations.TxOpenSendsThePeriod :=
  fun _ => ⟨fun room => if_pos room, fun full => if_neg (ne_true_of_eq_false full)⟩

/-- Settles O44: a datagram is sent where a session is open and has room, and the rate is stored where none is open. -/
theorem txSetRateResendsThePeriod : Obligations.TxSetRateResendsThePeriod := by
  intro s
  have stores (h : ¬ (s.enc.session = true ∧ s.txRoom 1 = false)) : exec .txSetRate s =
      .next (((s.withEnc (if s.enc.session then (s.enc.setRate s.arg.arg0).emit (periodDatagram (periodUs s.arg.arg0))
        else s.enc.setRate s.arg.arg0)).setQ0 (periodUs s.arg.arg0)).finish Status.ok) := if_neg h
  refine ⟨fun hs room => ?sent, fun hs => ?stored, fun hs full => if_pos ⟨hs, full⟩⟩
  case sent =>
    rw [stores fun h => ne_true_of_eq_false h.2 room, if_pos hs]
    rfl
  case stored =>
    rw [stores fun h => ne_true_of_eq_false hs h.1, if_neg (ne_true_of_eq_false hs)]
    rfl

/-- TX_PACK in a session: all the chunks or none (rules R198, R214). -/
theorem exec_txPack_of_session {s : State} (hs : s.enc.session = true) : exec .txPack s =
    if s.txRoom s.enc.chunks.length then
      .next (((s.withEnc (s.enc.emitAll s.enc.chunks)).setQ0 (toReg32 .q0 s.enc.chunks.length)).finish Status.ok)
    else .next ((s.setQ0 0).raise Status.txCapacity) :=
  if_neg (by simp [hs])

/-- Settles O45: the two tests of rule R198; the chunks appended are those of `chunk`. -/
theorem txPackAppendsItsChunks : Obligations.TxPackAppendsItsChunks := by
  intro s
  refine ⟨fun hs => if_pos hs, fun hs room => ?_, fun hs full => ?_⟩
  · rw [exec_txPack_of_session hs, emitAll_eq]
    exact if_pos room
  · rw [exec_txPack_of_session hs]
    exact if_neg (ne_true_of_eq_false full)

/-- TX_CLOSE in a session closes it, with room for the teardown datagram or without (rules R206, R207). -/
theorem exec_txClose_of_session {s : State} (hs : s.enc.session = true) : exec .txClose s =
    if s.txRoom 1 then .next (((s.withEnc ({ s.enc with session := false }.emit offDatagram)).setQ0 1).finish Status.ok)
    else .next (((s.withEnc { s.enc with session := false }).setQ0 0).raise Status.txCapacity) :=
  if_neg (by simp [hs])

/-- Settles O46: the two tests of rule R206. -/
theorem txCloseEndsTheSession : Obligations.TxCloseEndsTheSession := by
  intro s
  refine ⟨fun hs => if_pos hs, fun hs room => ?_, fun hs full => ?_⟩
  · exact (exec_txClose_of_session hs).trans (if_pos room)
  · exact (exec_txClose_of_session hs).trans (if_neg (ne_true_of_eq_false full))

/-- Settles O47: the one test of rule R208; a legal value is its own low half. -/
theorem txSetMaxdgStoresLegalValues : Obligations.TxSetMaxdgStoresLegalValues := by
  intro s
  refine ⟨fun hlo hhi => if_pos ⟨hlo, hhi⟩, fun hout => if_neg fun hin => ?_⟩
  obtain ⟨hlo, hhi⟩ := hin
  simp only [maxdgMin, maxdgMax] at hlo hhi
  omega

end Sys2Proof.Proofs
end

section
/-!
PROOFS (43_iwp_encode.md). The transmit stream: what TX_PACK emits, PARSE_IWP reads back (rules R187, R196, R209), and
points follow a period datagram of their session (rule R203).
-/

namespace Sys2Proof.Proofs

open Sys2Proof.Machine Sys2Proof.Safety

/-! ### Packed datagrams -/

/-- The command a wire point is sent as (rule R196). -/
def commandOf (q : WirePoint) : RawCmd :=
  .pt16 q.x q.y (wcol q.blank q.r) (wcol q.blank q.g) (wcol q.blank q.b)

theorem encodeCmd_commandOf (q : WirePoint) : encodeCmd (commandOf q) = encodePoint q := rfl

theorem pointOfCmd_commandOf (q : WirePoint) : pointOfCmd (commandOf q) = some (throughWire q) := rfl

/-- Encoded points are a stream of commands to the last byte. -/
theorem isStream_encodedPoints (qs : List WirePoint) :
    IsStream (qs.flatMap encodePoint) (qs.map commandOf) [] .atEnd where
  bytes := by simp only [List.flatMap_map, encodeCmd_commandOf, List.append_nil]
  noCommand := rfl

theorem filterMap_pointOfCmd_commandOf (qs : List WirePoint) :
    (qs.map commandOf).filterMap pointOfCmd = qs.map throughWire := by
  rw [List.filterMap_map, ← List.filterMap_eq_map]
  rfl

/-- A datagram of points parses to its end, and gives its points as the wire leaves them (rules R183, R187). -/
theorem parseIwp_encodedPoints {qs : List WirePoint} (hne : qs ≠ []) {u : State} (now : Time)
    (hbuf : u.prs.rbuf = qs.flatMap encodePoint) :
    ∃ v, exec (.parseIwp now) u = .next v ∧ v.res.status = 0x10 ∧ v.prs.pkt.points = qs.map throughWire := by
  have hdatagram : u.prs.rbuf ≠ [] := hbuf ▸ datagramOk_ne_nil (.inl ⟨qs, hne, rfl⟩)
  have hpacket := (isStream_encodedPoints qs).parseDatagram_eq now
  rw [← hbuf] at hpacket
  exact ⟨_, exec_parseIwp_of_packet hdatagram hpacket, rfl, filterMap_pointOfCmd_commandOf qs⟩

/-- What TX_PACK can do: append every chunk, in a session with room, or leave the encoder alone and report why. -/
theorem exec_txPack_cases {s t : State} (h : exec .txPack s = .next t) :
    (s.enc.session = true ∧ t.enc.txq = s.enc.txq ++ s.enc.chunks) ∨ (t.enc = s.enc ∧ t.res.status ≠ 0x00) := by
  obtain ⟨closed, sent, full⟩ := txPackAppendsItsChunks s
  cases hs : s.enc.session with
  | false =>
    cases (closed hs).symm.trans h
    exact .inr ⟨rfl, (by decide : (0x20 : Byte) ≠ 0x00)⟩
  | true =>
    cases room : s.cfg.txqCap.admits
        (s.enc.txq.length + (chunk (s.enc.pin.map encodePoint) (s.enc.maxdg.toNat / 11)).length) with
    | true =>
      cases (sent hs room).symm.trans h
      exact .inl ⟨rfl, rfl⟩
    | false =>
      cases (full hs room).symm.trans h
      exact .inr ⟨rfl, (by decide : (0x22 : Byte) ≠ 0x00)⟩

/-- Settles O50: the datagrams are the encodings of PIN's slices, and each of these parses back by itself. -/
theorem packedDatagramsParseBack : Obligations.PackedDatagramsParseBack := by
  intro s t hmax h hok
  have hper := perChunk_pos hmax
  obtain ⟨-, htxq⟩ | ⟨-, hstatus⟩ := exec_txPack_cases h
  · have hparts : ((slices s.enc.perChunk s.enc.pin).map (List.map throughWire)).flatten =
        s.enc.pin.map throughWire := by rw [← List.map_flatten, slices_flatten hper]
    rw [EncoderUnit.chunks, chunk_encodePoint] at htxq
    refine ⟨_, _, htxq, hparts, ?_⟩
    rw [List.forall₂_map_left_iff, List.forall₂_map_right_iff, List.forall₂_same]
    intro qs hqs u now hbuf
    exact parseIwp_encodedPoints (slice_ne_nil hper hqs) now hbuf
  · exact absurd hok hstatus

/-! ### The scan of the stream -/

theorem scanStream_cons (sent : Bool) (d : List Byte) (ds : List (List Byte)) :
    scanStream sent (d :: ds) = (scanStream sent [d]).bind fun sent' => scanStream sent' ds := by
  simp only [scanStream]
  cases d.head? with
  | none => rfl
  | some c =>
    dsimp only
    split_ifs <;> rfl

/-- Behind the first datagrams the scan goes on with the flag they leave. -/
theorem scanStream_append (sent : Bool) (xs ys : List (List Byte)) :
    scanStream sent (xs ++ ys) = (scanStream sent xs).bind fun sent' => scanStream sent' ys := by
  induction xs generalizing sent with
  | nil => rfl
  | cons d ds ih =>
    rw [List.cons_append, scanStream_cons, scanStream_cons sent d ds, Option.bind_assoc]
    exact congrArg _ (funext ih)

/-- A datagram of points begins with a type-3 record, which the scan lets pass where a period has been sent. -/
theorem scanStream_encodedPoints {qs : List WirePoint} (hne : qs ≠ []) :
    scanStream true [qs.flatMap encodePoint] = some true := by
  obtain ⟨q, qs, rfl⟩ := List.exists_cons_of_ne_nil hne
  rfl

theorem scanStream_of_forall {ds : List (List Byte)} (h : ∀ d ∈ ds, scanStream true [d] = some true) :
    scanStream true ds = some true := by
  induction ds with
  | nil => rfl
  | cons d ds ih =>
    rw [scanStream_cons, h d List.mem_cons_self]
    exact ih fun d' hd' => h d' (List.mem_cons_of_mem d hd')

theorem scanStream_chunks {e : EncoderUnit} (hmax : 11 ≤ e.maxdg.toNat) : scanStream true e.chunks = some true := by
  rw [EncoderUnit.chunks, chunk_encodePoint]
  refine scanStream_of_forall fun d hd => ?_
  obtain ⟨qs, hqs, rfl⟩ := List.mem_map.mp hd
  exact scanStream_encodedPoints (slice_ne_nil (perChunk_pos hmax) hqs)

/-- What an instruction can do to the transmit stream. Points go out in an open session alone (rule R203), and a session
opens with a period datagram (rule R202). -/
inductive StreamChange (e e' : EncoderUnit) : Prop
  | kept (ht : e'.txq = e.txq) (hs : e'.session = true → e.session = true) : StreamChange e e'
  | period (v : Word) (ht : e'.txq = e.txq ++ [periodDatagram v]) : StreamChange e e'
  | points (hs : e.session = true) (ht : e'.txq = e.txq ++ e.chunks) : StreamChange e e'
  | off (ht : e'.txq = e.txq ++ [offDatagram]) (hs : e'.session = false) : StreamChange e e'

theorem StreamChange.of_eq {e e' : EncoderUnit} (h : e' = e) : StreamChange e e' := h ▸ .kept rfl id

/-- Each of these changes keeps the stream legal: a period datagram sets the flag, points need it and leave it, a
teardown datagram clears it and closes the session. -/
theorem StreamChange.keeps_periodFirst {e e' : EncoderUnit} (h : StreamChange e e') (hmax : 11 ≤ e.maxdg.toNat)
    (he : PeriodFirst e) : PeriodFirst e' := by
  obtain ⟨sent, hscan, hsent⟩ := he
  have goesOn (ds : List (List Byte)) : scanStream false (e.txq ++ ds) = scanStream sent ds := by
    rw [scanStream_append, hscan, Option.bind_some]
  cases h with
  | kept ht hs => exact ⟨sent, ht ▸ hscan, fun ho => hsent (hs ho)⟩
  | period v ht => exact ⟨true, ht ▸ goesOn _, fun _ => rfl⟩
  | points hs ht =>
    refine ⟨true, ?_, fun _ => rfl⟩
    rw [ht, goesOn, hsent hs]
    exact scanStream_chunks hmax
  | off ht hs => exact ⟨false, ht ▸ goesOn _, fun ho => absurd ho (ne_true_of_eq_false hs)⟩

/-! ### What each command does to the stream -/

section
variable {s t : State}

theorem txOpen_streamChange (h : exec .txOpen s = .next t) : StreamChange s.enc t.enc := by
  obtain ⟨sent, full⟩ := txOpenSendsThePeriod s
  cases room : s.cfg.txqCap.admits (s.enc.txq.length + 1) with
  | true =>
    cases (sent room).symm.trans h
    exact .period _ rfl
  | false =>
    cases (full room).symm.trans h
    exact .kept rfl id

theorem txSetRate_streamChange (h : exec .txSetRate s = .next t) : StreamChange s.enc t.enc := by
  obtain ⟨sent, stored, full⟩ := txSetRateResendsThePeriod s
  cases hs : s.enc.session with
  | false =>
    cases (stored hs).symm.trans h
    exact .kept rfl id
  | true =>
    cases room : s.cfg.txqCap.admits (s.enc.txq.length + 1) with
    | true =>
      cases (sent hs room).symm.trans h
      exact .period _ rfl
    | false =>
      cases (full hs room).symm.trans h
      exact .kept rfl id

theorem txPack_streamChange (h : exec .txPack s = .next t) : StreamChange s.enc t.enc := by
  obtain ⟨hs, htxq⟩ | ⟨henc, -⟩ := exec_txPack_cases h
  · exact .points hs htxq
  · exact .of_eq henc

theorem txClose_streamChange (h : exec .txClose s = .next t) : StreamChange s.enc t.enc := by
  obtain ⟨closed, sent, full⟩ := txCloseEndsTheSession s
  cases hs : s.enc.session with
  | false =>
    cases (closed hs).symm.trans h
    exact .kept rfl id
  | true =>
    cases room : s.cfg.txqCap.admits (s.enc.txq.length + 1) with
    | true =>
      cases (sent hs room).symm.trans h
      exact .off rfl rfl
    | false =>
      cases (full hs room).symm.trans h
      exact .kept rfl nofun

theorem txSetMaxdg_streamChange (h : exec .txSetMaxdg s = .next t) : StreamChange s.enc t.enc := by
  change execTxSetMaxdg s = .next t at h
  unfold execTxSetMaxdg at h
  split at h <;> cases h <;> exact .kept rfl id

theorem xfFrame_streamChange (h : exec .xfFrame s = .next t) : StreamChange s.enc t.enc := by
  change execXfFrame s = .next t at h
  unfold execXfFrame at h
  repeat' split at h
  all_goals
    cases h
    exact .kept rfl id

theorem xfCurrent_streamChange (h : exec .xfCurrent s = .next t) : StreamChange s.enc t.enc := by
  change execXfCurrent s = .next t at h
  unfold execXfCurrent at h
  repeat' split at h
  all_goals
    cases h
    exact .kept rfl id

/-- Every instruction changes the stream in one of these ways; those of the other contexts do not touch the encoder. -/
theorem exec_streamChange {i : Instr} (h : exec i s = .next t) : StreamChange s.enc t.enc := by
  obtain ⟨mainLoop, receive, -⟩ := contextsOwnTheirState i s t h
  cases i with
  | ildaFmt0 | ildaFmt1 | ildaFmt2 | ildaFmt4 | ildaFmt5 | iwpOff | iwpPeriod | iwpPt8 | iwpPt16 =>
    cases h
    exact .kept rfl id
  | nop | xfI2w | xfW2i | xfW2s | xfExp | xfNar | xfWcol | seqSnapshot | rdReg | decodeIlda | seqLoad | seqPlay
  | seqPause | seqStop | seqUpdate | seqNext | seqPrev | seqSetFps | seqSetSpeed | seqSetLoop =>
    exact .of_eq (mainLoop rfl).2
  | parseIwp => exact .of_eq (receive rfl).2.1
  | xfFrame => exact xfFrame_streamChange h
  | xfCurrent => exact xfCurrent_streamChange h
  | txOpen => exact txOpen_streamChange h
  | txSetRate => exact txSetRate_streamChange h
  | txPack => exact txPack_streamChange h
  | txClose => exact txClose_streamChange h
  | txSetMaxdg => exact txSetMaxdg_streamChange h

theorem issue_streamChange {op : Byte} {now : Time} (h : issue op now s = .next t) : StreamChange s.enc t.enc := by
  unfold issue at h
  split at h
  case h_1 => exact exec_streamChange h
  case h_2 =>
    cases h
    exact .kept rfl id

/-- A host step that completes fits its buffer (rule R61). -/
theorem stepFits_of_hostStep {a : HostStep} (h : hostStep a s = .next t) : stepFits s.cfg a = true := by
  cases hfit : stepFits s.cfg a with
  | true => rfl
  | false =>
    obtain ⟨f, hf⟩ := hostStep_faults_of_not_fits hfit
    cases hf.symm.trans h

/-- A host step that is no command leaves TXQ and TX_SESSION alone. -/
theorem hostStep_streamChange {a : HostStep} (h : hostStep a s = .next t) : StreamChange s.enc t.enc := by
  cases a with
  | issue op now => exact issue_streamChange h
  | writeArg | read =>
    cases h
    exact .kept rfl id
  | writeIbuf bytes =>
    cases (writeIbuf_of_admits (stepFits_of_hostStep h)).symm.trans h
    exact .kept rfl id
  | writeRbuf bytes =>
    cases (writeRbuf_of_admits (stepFits_of_hostStep h)).symm.trans h
    exact .kept rfl id
  | writePin pts =>
    cases (writePin_of_admits (stepFits_of_hostStep h)).symm.trans h
    exact .kept rfl id

end

/-- Settles O15: the host's step changes the stream in one of the ways that keep it legal. -/
theorem stepKeepsPeriodFirst : Obligations.StepKeepsPeriodFirst := by
  intro s t hmax hs h
  obtain ⟨-, rfl⟩ | ⟨a, rest, -, ha⟩ := step_cases h
  · exact hs
  · exact (hostStep_streamChange ha).keeps_periodFirst hmax hs

end Sys2Proof.Proofs
end

section
/-!
PROOFS (44_sequencer.md). The sequencer's commands on a state (rules R225 to R238), what they do to SEQ_STATE, and a
playback without loop from the first frame to the last (rule R240).
-/

namespace Sys2Proof.Proofs

open Sys2Proof.Machine Sys2Proof.Safety

/-! ### The advance function (rule R230) -/

section
variable {q : SequencerUnit}

theorem adv_of_next (h : q.index.toNat + 1 < q.n.toNat) : q.adv = { q with index := q.index + 1 } := if_pos h

theorem adv_of_wrap (h : q.n.toNat ≤ q.index.toNat + 1) (hl : q.loop = true) : q.adv = { q with index := 0 } :=
  (if_neg (Nat.not_lt.mpr h)).trans (if_pos hl)

theorem adv_of_clamp (h : q.n.toNat ≤ q.index.toNat + 1) (hl : q.loop = false) :
    q.adv = { q with index := q.n - 1, state := if q.state = .playing then .paused else q.state } :=
  (if_neg (Nat.not_lt.mpr h)).trans (if_neg (ne_true_of_eq_false hl))

end

/-- `adv()` changes SEQ_STATE only to PAUSED, and never with the loop flag (rule R240). -/
theorem adv_state (q : SequencerUnit) : q.adv.state = q.state ∨ (q.loop = false ∧ q.adv.state = .paused) := by
  obtain ⟨-, e⟩ | ⟨-, -, e⟩ | ⟨-, hl, e⟩ := adv_cases q
  · exact .inl (by rw [e])
  · exact .inl (by rw [e])
  · rw [e]
    dsimp only
    split
    · exact .inr ⟨hl, rfl⟩
    · exact .inl rfl

/-! ### Results -/

/-- The index after SEQ_PREV fits its register. -/
theorem prevIndex_toNat {n : Word} (i : Nat) (hn : n ≠ 0) : (BitVec.ofNat 32 (i % n.toNat)).toNat = i % n.toNat := by
  rw [BitVec.toNat_ofNat, Nat.mod_eq_of_lt ((Nat.mod_lt _ (word_pos hn)).trans n.isLt)]

/-- A clamped value fits its register (rules R236, R237). -/
theorem clamp_register_toNat (v lo : Nat) {hi : Nat} (hhi : hi < 4294967296) :
    (BitVec.ofNat 32 (clamp v lo hi)).toNat = min (max v lo) hi := by
  rw [BitVec.toNat_ofNat]
  exact Nat.mod_eq_of_lt (Nat.lt_of_le_of_lt (Nat.min_le_right _ _) hhi)

/-- Bit 0 of an operand as a result (rule R235). -/
theorem ofBool32_lowBit (v : Word) : ofBool32 (lowBit v) = if v.toNat % 2 = 1 then 1 else 0 := by
  simp only [ofBool32, lowBit_eq_true_iff]

/-- SEQ_UPDATE's flag for a changed index (rule R232). -/
theorem ofBool32_ne (new old : Word) : ofBool32 (decide (new ≠ old)) = if old = new then 0 else 1 := by
  by_cases h : old = new
  · simp [h, ofBool32]
  · simp [h, Ne.symm h, ofBool32]

theorem index_ne_succ (i : Word) : i ≠ i + 1 := by bv_omega

/-! ### The commands -/

section
variable {s : State}

theorem exec_seqNext_of_frames (hn : s.seq.n ≠ 0) : exec .seqNext s =
    .next { s with seq := s.seq.adv, res := { s.res with q0 := s.seq.adv.index, status := 0x00 } } := by
  have hframes : 1 ≤ s.seq.n.toNat := word_pos hn
  change execSeqNext s = _
  rw [execSeqNext, if_pos hframes]
  rfl

theorem exec_seqPause_of_not_playing (h : s.seq.state ≠ .playing) : exec .seqPause s =
    .next { s with res := { s.res with q0 := s.seq.state.word, status := 0x00 } } := by
  change execSeqPause s = _
  rw [execSeqPause, if_neg h]
  rfl

theorem exec_seqUpdate_of_idle {now : Time} (h : ¬ s.seq.advances now = true) : exec (.seqUpdate now) s =
    .next { s with res := { s.res with q0 := 0, q1 := s.seq.index, status := 0x00 } } := by
  change execSeqUpdate now s = _
  rw [execSeqUpdate, if_neg h, ofBool32_ne, if_pos rfl]
  rfl

theorem exec_seqUpdate_of_advances {now : Time} (h : s.seq.advances now = true) : exec (.seqUpdate now) s =
    .next { s with
      seq := { s.seq.adv with last := now }
      res := { s.res with
        q0 := if s.seq.index = s.seq.adv.index then 0 else 1, q1 := s.seq.adv.index, status := 0x00 } } := by
  change execSeqUpdate now s = _
  rw [execSeqUpdate, if_pos h, ofBool32_ne]
  rfl

end

/-- Settles O51. -/
theorem seqLoadCopiesTheFrames : Obligations.SeqLoadCopiesTheFrames :=
  fun _ => ⟨rfl, toReg32_of_lt⟩

/-- Settles O52: in each state the commands' test on SEQ_STATE takes one branch. -/
theorem playPauseStopTransitions : Obligations.PlayPauseStopTransitions := by
  intro s now
  refine ⟨fun hplay => ?_, fun hidle => ?_, fun hplay => ?_, fun hpaused => ?_, fun hstopped => ?_, rfl⟩
  · change execSeqPlay now s = _
    rw [execSeqPlay, if_pos hplay, hplay]
    rfl
  · change execSeqPlay now s = _
    rw [execSeqPlay, if_neg hidle]
    rfl
  · change execSeqPause s = _
    rw [execSeqPause, if_pos hplay]
    rfl
  · rw [exec_seqPause_of_not_playing (ne_of_eq_of_ne hpaused nofun), hpaused]
    rfl
  · rw [exec_seqPause_of_not_playing (ne_of_eq_of_ne hstopped nofun), hstopped]
    rfl

/-- Settles O53: the three ways of `adv()`, where SEQ_UPDATE advances at all. -/
theorem seqUpdateAdvancesWhenDue : Obligations.SeqUpdateAdvancesWhenDue := by
  intro s now
  refine ⟨fun hidle => exec_seqUpdate_of_idle fun hadv => ?_, fun hplay hn hdue => ?_⟩
  · obtain ⟨hplay, hn, hdue⟩ := (advances_iff _ _).mp hadv
    obtain h | h | h := hidle
    · exact h hplay
    · simp [h] at hn
    · exact Nat.not_lt.mpr hdue h
  · have hadv := exec_seqUpdate_of_advances ((advances_iff s.seq now).mpr ⟨hplay, word_pos hn, hdue⟩)
    refine ⟨fun hlt => ?_, fun hle hl => ?_, fun hle hl => ?_⟩
    · rw [hadv, adv_of_next hlt, if_neg (index_ne_succ _)]
    · rw [hadv, adv_of_wrap hle hl]
    · rw [hadv, adv_of_clamp hle hl, if_pos hplay]

/-- Settles O54: the three ways of `adv()`, and the index before modulo SEQ_N. -/
theorem seqNextPrevMoveTheIndex : Obligations.SeqNextPrevMoveTheIndex := by
  intro s
  refine ⟨fun hn => ?_, fun hn hlt => ?_, fun hn hle hl => ?_, fun hn hle hl => ?_, fun hn => ?_⟩
  · have empty : ¬ 1 ≤ s.seq.n.toNat := by simp [hn]
    constructor
    · change execSeqNext s = _
      rw [execSeqNext, if_neg empty]
      rfl
    · change execSeqPrev s = _
      rw [execSeqPrev, if_neg empty]
      rfl
  · rw [exec_seqNext_of_frames hn, adv_of_next hlt]
  · rw [exec_seqNext_of_frames hn, adv_of_wrap hle hl]
  · rw [exec_seqNext_of_frames hn, adv_of_clamp hle hl]
  · have hframes : 1 ≤ s.seq.n.toNat := word_pos hn
    refine ⟨_, prevIndex_toNat _ hn, ?_⟩
    change execSeqPrev s = _
    rw [execSeqPrev, if_pos hframes]
    rfl

/-- Settles O55: the clamped values fit their registers, and each state has its code. -/
theorem seqSettersAndSnapshot : Obligations.SeqSettersAndSnapshot := by
  intro s
  refine ⟨_, _, clamp_register_toNat _ _ (by decide), clamp_register_toNat _ _ (by decide), rfl, rfl, ?_, ?_⟩
  · rw [← ofBool32_lowBit]
    rfl
  · change execSeqSnapshot s = _
    rw [execSeqSnapshot]
    cases s.seq.state <;> rfl

/-! ### SEQ_STATE (rule R240, P2 and P4) -/

/-- What instruction `i` can do to SEQ_STATE. -/
inductive StateChange (i : Instr) (q q' : SequencerUnit) : Prop
  | kept (h : q'.state = q.state) : StateChange i q q'
  | entered (now : Time) (hi : i = .seqPlay now) : StateChange i q q'
  | left (hi : i = .seqPause ∨ i = .seqStop ∨ i = .seqLoad) (h : q'.state ≠ .playing) : StateChange i q q'
  | ended (hl : q.loop = false) (h : q'.state = .paused) : StateChange i q q'

theorem StateChange.of_eq {i : Instr} {q q' : SequencerUnit} (h : q' = q) : StateChange i q q' :=
  .kept (congrArg SequencerUnit.state h)

theorem StateChange.of_adv {i : Instr} {q q' : SequencerUnit} (h : q'.state = q.adv.state) : StateChange i q q' := by
  obtain hkept | ⟨hl, hpaused⟩ := adv_state q
  · exact .kept (h.trans hkept)
  · exact .ended hl (h.trans hpaused)

section
variable {s t : State}

theorem seqPause_stateChange (h : exec .seqPause s = .next t) : StateChange .seqPause s.seq t.seq := by
  refine .left (.inl rfl) ?_
  by_cases hs : s.seq.state = .playing
  · obtain ⟨-, -, paused, -⟩ := playPauseStopTransitions s 0
    cases (paused hs).symm.trans h
    exact nofun
  · cases (exec_seqPause_of_not_playing hs).symm.trans h
    exact hs

theorem seqUpdate_stateChange {now : Time} (h : exec (.seqUpdate now) s = .next t) :
    StateChange (.seqUpdate now) s.seq t.seq := by
  by_cases hadv : s.seq.advances now = true
  · cases (exec_seqUpdate_of_advances hadv).symm.trans h
    exact .of_adv rfl
  · cases (exec_seqUpdate_of_idle hadv).symm.trans h
    exact .kept rfl

theorem seqNext_stateChange (h : exec .seqNext s = .next t) : StateChange .seqNext s.seq t.seq := by
  by_cases hn : s.seq.n = 0
  · obtain ⟨empty, -⟩ := seqNextPrevMoveTheIndex s
    cases (empty hn).1.symm.trans h
    exact .kept rfl
  · cases (exec_seqNext_of_frames hn).symm.trans h
    exact .of_adv rfl

theorem seqPrev_stateChange (h : exec .seqPrev s = .next t) : StateChange .seqPrev s.seq t.seq := by
  obtain ⟨empty, -, -, -, moved⟩ := seqNextPrevMoveTheIndex s
  by_cases hn : s.seq.n = 0
  · cases (empty hn).2.symm.trans h
    exact .kept rfl
  · obtain ⟨i, -, hi⟩ := moved hn
    cases hi.symm.trans h
    exact .kept rfl

/-- Every instruction changes SEQ_STATE in one of these ways; those the other contexts may issue do not touch the
sequencer. -/
theorem exec_stateChange {i : Instr} (h : exec i s = .next t) : StateChange i s.seq t.seq := by
  obtain ⟨-, receive, transmit⟩ := contextsOwnTheirState i s t h
  cases i with
  | ildaFmt0 | ildaFmt1 | ildaFmt2 | ildaFmt4 | ildaFmt5 | iwpOff | iwpPeriod | iwpPt8 | iwpPt16 | decodeIlda
  | seqSetFps | seqSetSpeed | seqSetLoop =>
    cases h
    exact .kept rfl
  | nop | xfI2w | xfW2i | xfW2s | xfExp | xfNar | xfWcol | seqSnapshot | rdReg | parseIwp =>
    exact .of_eq (receive rfl).2.2
  | xfFrame | xfCurrent | txOpen | txSetRate | txPack | txClose | txSetMaxdg => exact .of_eq (transmit rfl).2.2
  | seqPlay now => exact .entered now rfl
  | seqPause => exact seqPause_stateChange h
  | seqStop =>
    cases h
    exact .left (.inr (.inl rfl)) nofun
  | seqLoad =>
    cases h
    exact .left (.inr (.inr rfl)) nofun
  | seqUpdate => exact seqUpdate_stateChange h
  | seqNext => exact seqNext_stateChange h
  | seqPrev => exact seqPrev_stateChange h

end

/-- Settles O56: of the ways SEQ_STATE changes, one alone enters PLAYING, and with the loop flag one alone leaves it. -/
theorem playingEntersAndLeavesByCommand : Obligations.PlayingEntersAndLeavesByCommand := by
  intro i s t h
  constructor
  · intro ht hs
    cases exec_stateChange h with
    | kept hkept => exact absurd (hkept.symm.trans ht) hs
    | entered now hi => exact ⟨now, hi⟩
    | left _ hleft => exact absurd ht hleft
    | ended _ hpaused => cases hpaused.symm.trans ht
  · intro hs hl ht
    cases exec_stateChange h with
    | kept hkept => exact absurd (hkept.trans hs) ht
    | entered now hi =>
      subst hi
      obtain ⟨again, -⟩ := playPauseStopTransitions s now
      cases (again hs).symm.trans h
      exact absurd hs ht
    | left hi _ => exact hi
    | ended hoff _ => cases hoff.symm.trans hl

/-! ### A playback without loop (rule R240, P5) -/

/-- The sequencer plays without loop, and updates at the times `ts` are each due (rule R231). -/
structure PlaysThrough (ts : List Time) (q : SequencerUnit) : Prop where
  playing : q.state = .playing
  loopOff : q.loop = false
  due : List.IsChain (fun a b : Time => 1000000000000 ≤ (b.toNat - a.toNat) * q.fps.toNat * q.speed.toNat) (q.last :: ts)

section
variable {s : State} {now : Time} {ts : List Time}

/-- Before the last frame an update goes one frame on and returns 1. -/
theorem PlaysThrough.step (h : PlaysThrough (now :: ts) s.seq) (hlt : s.seq.index.toNat + 1 < s.seq.n.toNat) :
    ∃ t, exec (.seqUpdate now) s = .next t ∧ PlaysThrough ts t.seq ∧ t.seq.n = s.seq.n ∧
      t.seq.index.toNat = s.seq.index.toNat + 1 ∧ t.res.q0 = 1 := by
  obtain ⟨hdue, hrest⟩ := List.isChain_cons_cons.mp h.due
  have hn : s.seq.n ≠ 0 := by
    intro h0
    simp [h0] at hlt
  obtain ⟨next, -⟩ := (seqUpdateAdvancesWhenDue s now).2 h.playing hn hdue
  refine ⟨_, next hlt, ⟨h.playing, h.loopOff, hrest⟩, rfl, ?_, rfl⟩
  change (s.seq.index + 1).toNat = _
  bv_omega

/-- At the last frame an update pauses there and returns 0. -/
theorem PlaysThrough.last_step (h : PlaysThrough (now :: ts) s.seq) (hlast : s.seq.index.toNat + 1 = s.seq.n.toNat) :
    ∃ t, exec (.seqUpdate now) s = .next t ∧ t.seq.state = .paused ∧ t.seq.index = s.seq.n - 1 ∧ t.res.q0 = 0 := by
  obtain ⟨hdue, -⟩ := List.isChain_cons_cons.mp h.due
  have hn : s.seq.n ≠ 0 := by
    intro h0
    simp [h0] at hlast
  have hindex : s.seq.index = s.seq.n - 1 := by bv_omega
  obtain ⟨-, -, clamps⟩ := (seqUpdateAdvancesWhenDue s now).2 h.playing hn hdue
  exact ⟨_, clamps hlast.ge h.loopOff, rfl, rfl, if_pos hindex⟩

theorem execAll_cons_of_next {i : Instr} {is : List Instr} {t : State} (h : exec i s = .next t) :
    execAll (i :: is) s = execAll is t := by
  rw [execAll, h]

/-- Updates that end before SEQ_N go on by their number. Where there is none, the result is the one that stands. -/
theorem PlaysThrough.plays_on (h : PlaysThrough ts s.seq) (hlt : s.seq.index.toNat + ts.length < s.seq.n.toNat)
    (hq : ts = [] → s.res.q0 = 1) : ∃ t, execAll (ts.map Instr.seqUpdate) s = .next t ∧
      t.seq.state = .playing ∧ t.seq.index.toNat = s.seq.index.toNat + ts.length ∧ t.res.q0 = 1 := by
  induction ts generalizing s with
  | nil => exact ⟨s, rfl, h.playing, rfl, hq rfl⟩
  | cons now ts ih =>
    rw [List.length_cons] at hlt ⊢
    obtain ⟨u, hu, hplays, hn, hindex, hq0⟩ := h.step (by omega)
    rw [← hn] at hlt
    rw [List.map_cons, execAll_cons_of_next hu, Nat.add_comm ts.length, ← Nat.add_assoc, ← hindex]
    exact ih hplays (by omega) fun _ => hq0

/-- Updates that reach SEQ_N pause at the last frame. -/
theorem PlaysThrough.plays_to_end (h : PlaysThrough ts s.seq) (hlt : s.seq.index.toNat < s.seq.n.toNat)
    (hend : s.seq.index.toNat + ts.length = s.seq.n.toNat) : ∃ t, execAll (ts.map Instr.seqUpdate) s = .next t ∧
      t.seq.state = .paused ∧ t.seq.index = s.seq.n - 1 ∧ t.res.q0 = 0 := by
  induction ts generalizing s with
  | nil => exact absurd hend hlt.ne
  | cons now ts ih =>
    rw [List.length_cons] at hend
    by_cases hnext : s.seq.index.toNat + 1 < s.seq.n.toNat
    · obtain ⟨u, hu, hplays, hn, hindex, -⟩ := h.step hnext
      rw [← hn] at hnext hend ⊢
      rw [List.map_cons, execAll_cons_of_next hu]
      exact ih hplays (by omega) (by omega)
    · obtain rfl := List.eq_nil_of_length_eq_zero (by omega : ts.length = 0)
      obtain ⟨t, ht, hpaused⟩ := h.last_step hend
      exact ⟨t, execAll_cons_of_next ht, hpaused⟩

end

/-- Settles O57: from index 0 the updates are counted by the index. -/
theorem playsToTheEndAndPauses : Obligations.PlaysToTheEndAndPauses := by
  intro s ts hplay hl hindex hn hdue
  have hplays : PlaysThrough ts s.seq := ⟨hplay, hl, hdue⟩
  have h0 : s.seq.index.toNat = 0 := congrArg BitVec.toNat hindex
  constructor
  · intro hpos hlt
    simpa only [h0, Nat.zero_add] using
      hplays.plays_on (by omega) fun hnil => absurd (congrArg List.length hnil) hpos.ne'
  · intro hend
    exact hplays.plays_to_end (h0 ▸ word_pos hn) (by omega)

end Sys2Proof.Proofs
end

section
/-!
PROOFS (45_host_misc.md). Issued commands run and complete (rules R264, R266), each writes no Q register but those its
*Writes* names (rule R265), and RD_REG reads the register map of 10_state.md rule R47 (rules R261, R262).
-/

namespace Sys2Proof.Proofs

open Sys2Proof.Machine Sys2Proof.Safety

/-! ### Issued commands -/

/-- An opcode that decodes runs its instruction (rules R110, R264). -/
theorem issue_of_decode {op : Byte} {now : Time} {i : Instr} (h : decode (issueUnit op now) = .ok i) (s : State) :
    issue op now s = exec i s := by
  simp only [issue, h]

/-- Settles O7: the step is the issue at the port, which runs the decoded instruction. -/
theorem stepRunsIssuedCommand : Obligations.StepRunsIssuedCommand :=
  fun _ _ _ _ _ hport hdecode => (step_of_port_cons hport).trans (issue_of_decode hdecode _)

/-- Settles O10: of what `exec_completes` says, that a next state is answered. -/
theorem noCommandStopsTheBlock : Obligations.NoCommandStopsTheBlock := by
  intro i s
  obtain ⟨t, ht, -⟩ := exec_completes i s
  exact ⟨t, ht⟩

/-! ### Result registers -/

/-- What a command that names the first `n` of Q0, Q1 and Q2 can make of the result registers `r`: any of these `n` and
STATUS are written, the others kept (rule R265). -/
inductive ResultWrites (r : ResultRegs) : Nat → ResultRegs → Prop
  | status (code : Byte) : ResultWrites r 0 { r with status := code }
  | q0 (a : Word) (code : Byte) : ResultWrites r 1 { r with q0 := a, status := code }
  | q1 (a b : Word) (code : Byte) : ResultWrites r 2 { r with q0 := a, q1 := b, status := code }
  | q2 (a b c : Word) (code : Byte) : ResultWrites r 3 { r with q0 := a, q1 := b, q2 := c, status := code }

theorem ResultWrites.keeps_unnamed {r r' : ResultRegs} {n : Nat} (h : ResultWrites r n r') :
    (n = 0 → r'.q0 = r.q0) ∧ (n ≤ 1 → r'.q1 = r.q1) ∧ (n ≤ 2 → r'.q2 = r.q2) ∧ r'.q3 = r.q3 := by
  cases h with
  | status => exact ⟨fun _ => rfl, fun _ => rfl, fun _ => rfl, rfl⟩
  | q0 => exact ⟨nofun, fun _ => rfl, fun _ => rfl, rfl⟩
  | q1 => exact ⟨nofun, fun hn => absurd hn (by decide), fun _ => rfl, rfl⟩
  | q2 => exact ⟨nofun, fun hn => absurd hn (by decide), fun hn => absurd hn (by decide), rfl⟩

/-- The outcome of a command from `s` that names the first `n` of Q0, Q1 and Q2. -/
def CompletesWriting (n : Nat) (s : State) (o : Host.Outcome State Fault Refusal) : Prop :=
  ∃ t, o = .next t ∧ ResultWrites s.res n t.res

/-- Both branches of a command's test name the same registers; a branch may leave a named one as it was. -/
theorem CompletesWriting.ite {n : Nat} {s : State} {c : Prop} [Decidable c]
    {o o' : Host.Outcome State Fault Refusal} (h : CompletesWriting n s o) (h' : CompletesWriting n s o') :
    CompletesWriting n s (if c then o else o') := by
  split
  · exact h
  · exact h'

theorem execXfFrame_results (s : State) : CompletesWriting 1 s (execXfFrame s) := by
  refine .ite ⟨_, rfl, .q0 _ _⟩ ?_
  split
  · exact ⟨_, rfl, .q0 _ _⟩
  · exact .ite ⟨_, rfl, .q0 _ _⟩ ⟨_, rfl, .q0 _ _⟩

theorem execXfCurrent_results (s : State) : CompletesWriting 2 s (execXfCurrent s) := by
  refine .ite ⟨_, rfl, .q1 _ _ _⟩ ?_
  split
  · exact ⟨_, rfl, .q1 _ _ _⟩
  · exact .ite ⟨_, rfl, .q1 _ _ _⟩ ⟨_, rfl, .q1 _ _ _⟩

theorem execRdReg_results (s : State) : CompletesWriting 1 s (execRdReg s) := by
  cases h : readReg s (lowByte s.arg.arg0) with
  | some v => exact ⟨_, execRdReg_of_some h, .q0 _ _⟩
  | none => exact ⟨_, execRdReg_of_none h, .q0 _ _⟩

/-- Every instruction writes no Q register beyond those it names. -/
theorem exec_results (i : Instr) (s : State) : CompletesWriting (namedQ i) s (exec i s) := by
  cases i with
  | ildaFmt0 | ildaFmt1 | ildaFmt2 | ildaFmt4 | ildaFmt5 | iwpOff | iwpPeriod | iwpPt8 | iwpPt16 | nop =>
    exact ⟨_, rfl, .status _⟩
  | xfExp | xfNar | xfWcol | seqLoad | seqPlay | seqPause | seqStop | seqNext | seqPrev | seqSetFps | seqSetSpeed
  | seqSetLoop => exact ⟨_, rfl, .q0 _ _⟩
  | decodeIlda | xfI2w | xfW2i | seqUpdate => exact ⟨_, rfl, .q1 _ _ _⟩
  | seqSnapshot => exact ⟨_, rfl, .q2 _ _ _ _⟩
  | txSetMaxdg => exact .ite ⟨_, rfl, .status _⟩ ⟨_, rfl, .status _⟩
  | txOpen | txSetRate => exact .ite ⟨_, rfl, .q0 _ _⟩ ⟨_, rfl, .q0 _ _⟩
  | txPack | txClose => exact .ite ⟨_, rfl, .q0 _ _⟩ (.ite ⟨_, rfl, .q0 _ _⟩ ⟨_, rfl, .q0 _ _⟩)
  | xfW2s | parseIwp => exact .ite ⟨_, rfl, .q1 _ _ _⟩ ⟨_, rfl, .q1 _ _ _⟩
  | xfFrame => exact execXfFrame_results s
  | xfCurrent => exact execXfCurrent_results s
  | rdReg => exact execRdReg_results s

/-- Settles O20: whatever the instruction, the registers beyond those it names are kept. -/
theorem unnamedResultsKeepTheirValue : Obligations.UnnamedResultsKeepTheirValue := by
  intro i s t h
  obtain ⟨t', ht', hwrites⟩ := exec_results i s
  cases h.symm.trans ht'
  exact hwrites.keeps_unnamed

/-! ### The register map -/

/-- The rows of the register map: number and value (rule R47). -/
def registerMap (s : State) : List (Nat × Word) :=
  [(0x00, s.res.status.zeroExtend 32), (0x01, s.res.q0), (0x02, s.res.q1), (0x03, s.res.q2), (0x04, s.res.q3),
   (0x08, s.arg.arg0), (0x09, s.arg.arg1), (0x0A, s.arg.arg2), (0x0B, s.arg.arg3),
   (0x10, toReg32 (.reg 0x10) s.dec.off), (0x11, s.dec.nframes), (0x12, s.dec.stop.zeroExtend 32),
   (0x20, s.seq.state.word), (0x21, s.seq.index), (0x22, ofBool32 s.seq.loop), (0x23, s.seq.fps),
   (0x24, s.seq.speed), (0x25, timeLo s.seq.last), (0x26, timeHi s.seq.last), (0x27, s.seq.n),
   (0x30, zext32 s.enc.maxdg), (0x31, s.enc.scanHz), (0x32, s.enc.period), (0x33, ofBool32 s.enc.session),
   (0x34, s.enc.ndgram), (0x40, s.prs.received), (0x41, s.prs.valid), (0x42, s.prs.invalid),
   (0x48, toReg32 (.reg 0x48) s.prs.pkt.points.length), (0x49, toReg32 (.reg 0x49) s.prs.pkt.cmds.length),
   (0x4A, ofBool32 s.prs.pkt.hasPeriod), (0x4B, s.prs.pkt.period.getD 0), (0x4C, timeLo s.prs.pkt.time),
   (0x4D, timeHi s.prs.pkt.time), (0x4E, toReg32 (.reg 0x4E) s.prs.pkt.len),
   (0x4F, toReg32 (.reg 0x4F) s.prs.pkt.endOff), (0x50, s.prs.pkt.stop.zeroExtend 32),
   (0x60, toReg32 (.reg 0x60) s.enc.pin.length)]

/-- The numbers of the register map (rule R47). -/
def registerNumbers : List Nat :=
  [0x00, 0x01, 0x02, 0x03, 0x04, 0x08, 0x09, 0x0A, 0x0B, 0x10, 0x11, 0x12, 0x20, 0x21, 0x22, 0x23, 0x24, 0x25, 0x26,
   0x27, 0x30, 0x31, 0x32, 0x33, 0x34, 0x40, 0x41, 0x42, 0x48, 0x49, 0x4A, 0x4B, 0x4C, 0x4D, 0x4E, 0x4F, 0x50, 0x60]

/-- A number of the map reads its row, since each row's number reads its own value. -/
theorem readReg_of_mem {s : State} {r : Byte} {v : Word} (h : (r.toNat, v) ∈ registerMap s) :
    readReg s r = some v := by
  have rows : (registerMap s).map (fun row => readReg s (BitVec.ofNat 8 row.1)) =
      (registerMap s).map (fun row => some row.2) := rfl
  simpa using List.map_inj_left.mp rows _ h

/-- A number not in the map is unassigned (rules R48, R262). -/
theorem readReg_of_not_mem {s : State} {r : Byte} (h : r.toNat ∉ registerNumbers) : readReg s r = none := by
  unfold readReg
  split
  case h_39 => rfl
  all_goals
    next hr => exact absurd (by rw [hr]; decide) h

/-- SEQ_STATE's encoding as a number (rule R39). -/
theorem playState_word_eq (p : PlayState) :
    p.word = match p with | .stopped => 0 | .paused => 1 | .playing => 2 := by
  cases p <;> rfl

/-- The high half of a 64-bit register as a quotient (rule R47, HI). -/
theorem timeHi_eq (t : Time) : timeHi t = BitVec.ofNat 32 (t.toNat / 4294967296) :=
  congrArg (BitVec.ofNat 32) (Nat.shiftRight_eq_div_pow t.toNat 32)

/-- Settles O58: RD_REG answers the row of the map that ARG0's low byte names, or finds none. -/
theorem nopAndRegisterReads : Obligations.NopAndRegisterReads := by
  intro s
  refine ⟨rfl, fun v hrow => ?assigned, fun hnone => ?unassigned⟩
  case assigned =>
    refine execRdReg_of_some (s := s) (v := v) (readReg_of_mem ?_)
    rw [lowByte_toNat, registerMap, playState_word_eq, timeHi_eq, timeHi_eq]
    exact hrow
  case unassigned =>
    refine execRdReg_of_none (s := s) (readReg_of_not_mem ?_)
    rw [lowByte_toNat]
    exact hnone

end Sys2Proof.Proofs
end

section
/-!
PROOFS (60_exceptions.md). Every host command ends with a STATUS code of its row of rule R270: each ends with
`State.finish`, so what is left is the codes of its branches and, for DECODE_ILDA and PARSE_IWP, the reason for the
stop.
-/

namespace Sys2Proof.Proofs

open Sys2Proof.Machine Sys2Proof.Safety

/-! ### Ending with a code of a row -/

/-- The outcome of a command that completes with one of `codes` in STATUS (rules R270, R274). -/
def EndsIn (codes : List Byte) (o : Host.Outcome State Fault Refusal) : Prop :=
  ∃ t, o = .next t ∧ t.res.status ∈ codes

section
variable {codes : List Byte}

theorem EndsIn.finish {s : State} {code : Byte} (h : code ∈ codes) : EndsIn codes (.next (s.finish code)) :=
  ⟨s.finish code, rfl, h⟩

/-- `raise` ends a command as `finish` does (00_scope.md rule R14). -/
theorem EndsIn.raise {s : State} {code : Byte} (h : code ∈ codes) : EndsIn codes (.next (s.raise code)) :=
  .finish h

/-- A command with a test ends with a code of its row if both branches do. -/
theorem EndsIn.ite {c : Prop} [Decidable c] {o o' : Host.Outcome State Fault Refusal} (h : EndsIn codes o)
    (h' : EndsIn codes o') : EndsIn codes (if c then o else o') := by
  split
  · exact h
  · exact h'

end

/-! ### The stops of the two streams -/

theorem ofSecReject_mem_endCodes (e : SecReject) : Status.ofSecReject e ∈ endCodes .decodeIlda := by
  cases e with
  | shortHeader => exact show Status.decEnd ∈ endCodes .decodeIlda by decide
  | badMagic => exact show Status.decBadMagic ∈ endCodes .decodeIlda by decide
  | unsupportedFormat => exact show Status.decUnsupportedFormat ∈ endCodes .decodeIlda by decide

/-- Each reason for which a decode ends has a code of DECODE_ILDA's row (rules R121, R126, R128, R129). -/
theorem DecodeEnd.stop_mem_endCodes {c : Config} {d : DecoderUnit} (h : DecodeEnd c d) :
    d.stop ∈ endCodes .decodeIlda := by
  cases h with
  | noSection e he hoff hstop => exact hstop ▸ ofSecReject_mem_endCodes e
  | truncated p x hx hshort hoff hstop => rw [hstop]; decide
  | full x hx hpoint hroom hstop => rw [hstop]; decide

theorem ofCmdReject_mem_endCodes (e : CmdReject) (now : Time) : Status.ofCmdReject e ∈ endCodes (.parseIwp now) := by
  cases e with
  | atEnd => exact show Status.parseEnd ∈ [0x10, 0x11, 0x12, 0x13] by decide
  | unknownCommand => exact show Status.parseUnknownCmd ∈ [0x10, 0x11, 0x12, 0x13] by decide
  | truncatedCommand => exact show Status.parseTruncated ∈ [0x10, 0x11, 0x12, 0x13] by decide

/-- Every datagram is a stream of commands up to the bytes that are none, which give the code (rules R175, R178,
R179). -/
theorem parseDatagram_stop_mem_endCodes (buf : List Byte) (now : Time) :
    (parseDatagram buf now).stop ∈ endCodes (.parseIwp now) := by
  obtain ⟨cmds, tail, e, h⟩ := exists_isStream buf
  rw [h.parseDatagram_eq now]
  exact ofCmdReject_mem_endCodes e now

/-! ### The commands -/

theorem execDecodeIlda_endsIn (s : State) : EndsIn (endCodes .decodeIlda) (execDecodeIlda s) :=
  .finish (decodeImage_ends s.cfg s.dec).stop_mem_endCodes

theorem execParseIwp_endsIn (now : Time) (s : State) : EndsIn (endCodes (.parseIwp now)) (execParseIwp now s) :=
  .ite (.raise (.tail _ (.head _))) (.finish (parseDatagram_stop_mem_endCodes s.prs.rbuf now))

theorem execXfFrame_endsIn (s : State) : EndsIn (endCodes .xfFrame) (execXfFrame s) := by
  refine .ite (.raise (by decide)) ?_
  split
  · exact .raise (by decide)
  · exact .ite (.finish (by decide)) (.raise (by decide))

theorem execXfCurrent_endsIn (s : State) : EndsIn (endCodes .xfCurrent) (execXfCurrent s) := by
  refine .ite (.raise (by decide)) ?_
  split
  · exact .raise (by decide)
  · exact .ite (.finish (by decide)) (.raise (by decide))

theorem execRdReg_endsIn (s : State) : EndsIn (endCodes .rdReg) (execRdReg s) := by
  cases h : readReg s (lowByte s.arg.arg0) with
  | some v => exact execRdReg_of_some h ▸ .finish (by decide)
  | none => exact execRdReg_of_none h ▸ .raise (by decide)

/-- Every host command completes with a code of its row; the instructions of the streams are no host commands. -/
theorem exec_endsIn_endCodes {i : Instr} (hi : isHostCommand i = true) (s : State) :
    EndsIn (endCodes i) (exec i s) := by
  cases i with
  | ildaFmt0 | ildaFmt1 | ildaFmt2 | ildaFmt4 | ildaFmt5 | iwpOff | iwpPeriod | iwpPt8 | iwpPt16 =>
    exact absurd hi Bool.false_ne_true
  | nop | xfI2w | xfW2i | xfExp | xfNar | xfWcol | seqLoad | seqPlay | seqPause | seqStop | seqUpdate | seqNext
  | seqPrev | seqSetFps | seqSetSpeed | seqSetLoop | seqSnapshot => exact .finish (.head _)
  | decodeIlda => exact execDecodeIlda_endsIn s
  | parseIwp now => exact execParseIwp_endsIn now s
  | txOpen | txSetMaxdg => exact .ite (.finish (by decide)) (.raise (by decide))
  | xfW2s | txSetRate => exact .ite (.raise (by decide)) (.finish (by decide))
  | txPack => exact .ite (.raise (by decide)) (.ite (.finish (by decide)) (.raise (by decide)))
  | txClose => exact .ite (.finish (by decide)) (.ite (.finish (by decide)) (.raise (by decide)))
  | xfFrame => exact execXfFrame_endsIn s
  | xfCurrent => exact execXfCurrent_endsIn s
  | rdReg => exact execRdReg_endsIn s

/-- Settles O19: the next state is the one in which the command ends with a code of its row. -/
theorem commandsEndWithTheirCodes : Obligations.CommandsEndWithTheirCodes := by
  intro i s t hi h
  obtain ⟨t', ht', hcode⟩ := exec_endsIn_endCodes hi s
  cases h.symm.trans ht'
  exact hcode

end Sys2Proof.Proofs
end

section
/-!
PROOFS (70_reset_and_hazards.md). The reset table (rule R296), for every configuration: the two of its entries that are
given through a function of the model, PAL and TX_PERIOD, and the table itself.
-/

namespace Sys2Proof.Proofs

open Sys2Proof.Machine

/-- Every entry of the palette at reset is the opaque white of rules R8 and R30. -/
theorem whitePalette_getElem (i : Fin 256) : whitePalette[i] = ⟨255, 255, 255⟩ :=
  Vector.getElem_replicate i.isLt

/-- No rate gives the shortest period (rule R200). -/
theorem periodUs_zero : periodUs 0 = 1 := if_pos rfl

/-- TX_PERIOD at reset is the period of the TX_SCAN_HZ at reset (rule R296). -/
theorem resetWith_period (c : Config) : (State.resetWith c).enc.period = periodUs (State.resetWith c).enc.scanHz :=
  periodUs_zero.symm

/-- Settles O12: PAL entry by entry, TX_PERIOD by its function, and every other field as `State.resetWith` writes it, in
the order of the table. -/
theorem resetTable : Obligations.ResetTable := by
  refine ⟨fun c => ?_, rfl, rfl⟩
  have hpal : ∀ i : Fin 256, (State.resetWith c).dec.pal[i] = ⟨255, 255, 255⟩ := whitePalette_getElem
  exact ⟨rfl, rfl, rfl, rfl, rfl, rfl, hpal, rfl, rfl, rfl, rfl, rfl, rfl, rfl, resetWith_period c, rfl⟩

end Sys2Proof.Proofs
end
